-- ==== Sys2Proof/Word.lean ====
section
/-! DEFINITION. The value types of 00_scope.md rules R8 and R9: bytes, byte sequences and u32. -/

namespace Sys2Proof

/-- A byte: an integer in 0..255 (R8). -/
abbrev Byte := BitVec 8

/-- `Bytes`: a finite byte sequence, indexed from 0 (R8). -/
abbrev Bytes := List Byte

/-- `u32`: an integer in 0..2^32-1 (R8). -/
abbrev U32 := BitVec 32

end Sys2Proof
end

