-- ==== Sys2Proof/Config.lean ====
section
/-! DEFINITION. The implementation parameters: the fixed literals of 00_scope.md rule R6, each under its own name so that a
corrected literal changes one definition (I1), and the open parameter `BUF_CAP` of rule R7. -/

namespace Sys2Proof.Config

/-- `ESC`: the escape sentinel byte of the token stream (R6). -/
def esc : Byte := 0xFF
/-- `HDR0`: first byte of the fixed container header (R6). -/
def hdr0 : Byte := 0x78
/-- `HDR1`: second byte of the fixed container header (R6). -/
def hdr1 : Byte := 0x9C
/-- `TRAILER_LEN`: length of the Adler-32 trailer (R6). -/
def trailerLen : Nat := 4
/-- `MIN_STREAM_LEN`: shortest stream the decoder accepts (R6). -/
def minStreamLen : Nat := 6
/-- `WINDOW`: largest distance the match finder tries (R6). -/
def window : Nat := 32768
/-- `MAX_MATCH`: largest match length the match finder measures (R6). -/
def maxMatch : Nat := 258
/-- `MAX_TOKEN_LEN`: largest length one back-reference token carries (R6). -/
def maxTokenLen : Nat := 255
/-- `MIN_MATCH`: smallest match length emitted as a back-reference (R6). -/
def minMatch : Nat := 4
/-- `DIST_FIELD_MAX`: largest distance the token format can carry (R6). -/
def distFieldMax : Nat := 65535
/-- `ADLER_MOD` (R6). -/
def adlerMod : Nat := 65521
/-- `ADLER_A0` (R6). -/
def adlerA0 : Nat := 1
/-- `ADLER_B0` (R6). -/
def adlerB0 : Nat := 0
/-- The bit-reversed IEEE 802.3 polynomial (R120; PRESUMED, log 15). -/
def crcPoly : U32 := 0xEDB88320
/-- The initial value and the final XOR of the CRC (R120; PRESUMED, log 15). -/
def crcInit : U32 := 0xFFFFFFFF
/-- `FILTER_SUB`: the filter-type byte at the head of every row (R6). -/
def filterSub : Byte := 0x01
/-- `BPP`: bytes per pixel (R6). -/
def bpp : Nat := 4
/-- `PNG_SIG`: the 8-byte PNG signature (R6). -/
def pngSig : Bytes := [0x89, 0x50, 0x4E, 0x47, 0x0D, 0x0A, 0x1A, 0x0A]
/-- `IHDR_LEN`: the IHDR payload length (R6). -/
def ihdrLen : Nat := 13
/-- `BIT_DEPTH` (R6). -/
def bitDepth : Byte := 0x08
/-- `COLOR_TYPE`: RGBA (R6). -/
def colorType : Byte := 0x06
/-- `LEN_FIELD_MAX`: the largest payload length a 4-byte chunk length field can hold (R7). -/
def lenFieldMax : Nat := 2 ^ 32 - 1
/-- The chunk type tag `IHDR` (R93; PRESUMED, log 16). -/
def tagIhdr : Bytes := [0x49, 0x48, 0x44, 0x52]
/-- The chunk type tag `IDAT` (R93; PRESUMED, log 16). -/
def tagIdat : Bytes := [0x49, 0x44, 0x41, 0x54]
/-- The chunk type tag `IEND` (R93; PRESUMED, log 16). -/
def tagIend : Bytes := [0x49, 0x45, 0x4E, 0x44]

end Sys2Proof.Config

namespace Sys2Proof

/-- What the source leaves open and a model takes as an argument (R7): `BUF_CAP`, the longest byte sequence the block accepts
or produces; `none` is unbounded, the default of R7 (log 3). -/
structure Params where
  bufCap : Option Nat
  deriving DecidableEq, Repr

end Sys2Proof
end

