-- ==== Sys2Proof/Machine/Bytes.lean ====
section
/-! DEFINITION. The byte-sequence and multi-byte-field helpers of 00_scope.md rules R8-R11. -/

namespace Sys2Proof

/-- `s[i]` where the rules keep `i` below `len(s)` (R8). The value given past the end is never used by a rule: every reader
stays below the length (R61, R63, R64; log 18). -/
def byteAt (s : Bytes) (i : Nat) : Byte := s.getD i 0

/-- `s[a..b)` (R8). -/
def slice (s : Bytes) (a b : Nat) : Bytes := (s.drop a).take (b - a)

/-- `rep(s, k)` (R8). -/
def rep (s : Bytes) : Nat → Bytes
  | 0 => []
  | k + 1 => s ++ rep s k

/-- `lo8(v) = v mod 256` (R9). -/
def lo8 (v : Nat) : Byte := BitVec.ofNat 8 v

/-- `hi8(v) = (v >> 8) mod 256` (R9). -/
def hi8 (v : Nat) : Byte := BitVec.ofNat 8 (v >>> 8)

/-- `be32(v)`: four bytes, most significant first (R10). -/
def be32 (v : U32) : Bytes :=
  [v.extractLsb' 24 8, v.extractLsb' 16 8, v.extractLsb' 8 8, v.extractLsb' 0 8]

/-- `rd_be32(s, i)` (R10). -/
def rdBe32 (s : Bytes) (i : Nat) : U32 :=
  (byteAt s i).setWidth 32 <<< 24 ||| (byteAt s (i + 1)).setWidth 32 <<< 16
    ||| (byteAt s (i + 2)).setWidth 32 <<< 8 ||| (byteAt s (i + 3)).setWidth 32

/-- `le16(v)`: two bytes, least significant first (R10). -/
def le16 (v : BitVec 16) : Bytes := [v.extractLsb' 0 8, v.extractLsb' 8 8]

/-- `rd_le16(s, i)` (R10). -/
def rdLe16 (s : Bytes) (i : Nat) : BitVec 16 :=
  (byteAt s i).setWidth 16 ||| (byteAt s (i + 1)).setWidth 16 <<< 8

end Sys2Proof
end

