-- ==== Sys2Proof/Syntax.lean ====
section
/-! DEFINITION. The instructions: one constructor per row of spec/opcode_table.json, three tokens (R82-R84) and nine commands
(R101), each with its operands. -/

namespace Sys2Proof

/-- An instruction of rpng-CORE: a token of the decoder or a command of the block. -/
inductive Instr where
  /-- `LIT b` (R82, R183). -/
  | lit (b : Byte)
  /-- `LITFF` (R83, R184). -/
  | litff
  /-- `REF dist, n` (R84, R187). -/
  | ref (dist : BitVec 16) (n : Byte)
  /-- `CRC32 a, b`, op `0x01` (R123). -/
  | crc32 (a b : Bytes)
  /-- `ADLER32 data`, op `0x02` (R126). -/
  | adler32 (data : Bytes)
  /-- `FILTER width, height, pixels`, op `0x03` (R141). -/
  | filter (width height : U32) (pixels : Bytes)
  /-- `COMPRESS data`, op `0x04` (R160). -/
  | compress (data : Bytes)
  /-- `DECOMPRESS stream`, op `0x05` (R189). -/
  | decompress (stream : Bytes)
  /-- `WRITE_CHUNK tag, payload`, op `0x06` (R201). -/
  | writeChunk (tag payload : Bytes)
  /-- `MAKE_IHDR width, height`, op `0x07` (R203). -/
  | makeIhdr (width height : U32)
  /-- `ASSEMBLE ihdr_payload, idat_payload`, op `0x08` (R205). -/
  | assemble (ihdr idat : Bytes)
  /-- `ENCODE_PNG width, height, pixels`, op `0x09` (R207). -/
  | encodePng (width height : U32) (pixels : Bytes)
  deriving DecidableEq, Repr

end Sys2Proof
end

