-- ==== Sys2Proof/WellFormed.lean ====
section
/-! DEFINITION. Well-formed instructions: the tokens that can be written down (R82-R85) and the operand conditions of R103 that
a command's own operands decide. The conditions of R103 that need the machine (BUF_CAP, the host's storage, the length of
ENCODE_PNG's compressed stream) are checked where the machine runs the command. -/

namespace Sys2Proof

/-- A well-formed RawImage: positive dimensions and `len(pixels) = width*height*4` (R90, R103). -/
def wfImage (width height : U32) (pixels : Bytes) : Bool :=
  decide (1 ≤ width.toNat) && decide (1 ≤ height.toNat)
    && decide (pixels.length = width.toNat * height.toNat * 4)

/-- Whether an instruction is well formed (R82-R85 for tokens, R103 for commands). -/
def Instr.wf : Instr → Bool
  | .lit b => decide (b ≠ 0xFF)
  | .litff => true
  | .ref dist _ => decide (dist.toNat % 256 ≠ 255)
  | .crc32 _ _ => true
  | .adler32 _ => true
  | .filter width height pixels => wfImage width height pixels
  | .compress _ => true
  | .decompress _ => true
  | .writeChunk tag payload => decide (tag.length = 4) && decide (payload.length ≤ 2 ^ 32 - 1)
  | .makeIhdr width height => decide (1 ≤ width.toNat) && decide (1 ≤ height.toNat)
  | .assemble ihdr idat => decide (ihdr.length ≤ 2 ^ 32 - 1) && decide (idat.length ≤ 2 ^ 32 - 1)
  | .encodePng width height pixels => wfImage width height pixels

/-- Whether an instruction is a token of the token region (R80), not a command (R101). -/
def Instr.isToken : Instr → Bool
  | .lit _ => true
  | .litff => true
  | .ref _ _ => true
  | .crc32 _ _ => false
  | .adler32 _ => false
  | .filter _ _ _ => false
  | .compress _ => false
  | .decompress _ => false
  | .writeChunk _ _ => false
  | .makeIhdr _ _ => false
  | .assemble _ _ => false
  | .encodePng _ _ _ => false

end Sys2Proof
end

