-- ==== Sys2Proof/Decode.lean ====
section
/-! DEFINITION. Decoding: `decode_token` on a token region (R85), the opcode map on a command descriptor (R101), both total and
rejecting by name; the encoder written from the same tables (R82-R84, R100-R101); and the host's `decodeTableWord`. -/

namespace Sys2Proof

/-- One operand of a command descriptor: a whole byte sequence or a u32 (R99). -/
inductive Operand where
  | bytes (b : Bytes)
  | u32 (v : U32)
  deriving DecidableEq, Repr

/-- A command descriptor `{ op : u8, operands }`: a record of typed fields, not a bit layout (R99, R100). -/
structure Descriptor where
  op : Byte
  operands : List Operand
  deriving DecidableEq, Repr

/-- Why something presented is no instruction. -/
inductive DecodeReject where
  /-- A token was asked for where no byte of the token region is left (R85 requires `p < len(T)`). -/
  | endOfRegion
  /-- The escape is the last byte, or a `REF` lacks its three following bytes (R85, R223). -/
  | truncatedToken
  /-- A token region holds more bytes than the one token asked for. -/
  | trailingBytes
  /-- An opcode outside `0x01..0x09` (R101). -/
  | unassignedOpcode
  /-- The operand list is not the one R101 gives for the opcode (DEDUCED, log 10). -/
  | operandMismatch
  deriving DecidableEq, Repr

/-- Pseudocode `decode_token(T, p)` of R85: the token at `p` and its size. -/
def decodeToken (T : Bytes) (p : Nat) : Except DecodeReject (Instr × Nat) :=
  if T.length ≤ p then .error .endOfRegion
  else if byteAt T p ≠ Config.esc then .ok (.lit (byteAt T p), 1)
  else if T.length ≤ p + 1 then .error .truncatedToken
  else if byteAt T (p + 1) = Config.esc then .ok (.litff, 2)
  else if T.length - p < 4 then .error .truncatedToken
  else .ok (.ref (rdLe16 T (p + 1)) (byteAt T (p + 3)), 4)

/-- The command opcode map of R101: opcode and operand list to a command. -/
def decodeCommand (d : Descriptor) : Except DecodeReject Instr :=
  match d.op.toNat with
  | 0x01 =>
    match d.operands with
    | [.bytes a, .bytes b] => .ok (.crc32 a b)
    | _ => .error .operandMismatch
  | 0x02 =>
    match d.operands with
    | [.bytes data] => .ok (.adler32 data)
    | _ => .error .operandMismatch
  | 0x03 =>
    match d.operands with
    | [.u32 width, .u32 height, .bytes pixels] => .ok (.filter width height pixels)
    | _ => .error .operandMismatch
  | 0x04 =>
    match d.operands with
    | [.bytes data] => .ok (.compress data)
    | _ => .error .operandMismatch
  | 0x05 =>
    match d.operands with
    | [.bytes stream] => .ok (.decompress stream)
    | _ => .error .operandMismatch
  | 0x06 =>
    match d.operands with
    | [.bytes tag, .bytes payload] => .ok (.writeChunk tag payload)
    | _ => .error .operandMismatch
  | 0x07 =>
    match d.operands with
    | [.u32 width, .u32 height] => .ok (.makeIhdr width height)
    | _ => .error .operandMismatch
  | 0x08 =>
    match d.operands with
    | [.bytes ihdr, .bytes idat] => .ok (.assemble ihdr idat)
    | _ => .error .operandMismatch
  | 0x09 =>
    match d.operands with
    | [.u32 width, .u32 height, .bytes pixels] => .ok (.encodePng width height pixels)
    | _ => .error .operandMismatch
  | _ => .error .unassignedOpcode

/-- The two layers of encoding of 30_encoding.md: the bytes of a token, or a command descriptor. -/
inductive Encoded where
  | token (bytes : Bytes)
  | command (d : Descriptor)
  deriving DecidableEq, Repr

/-- The encoding of an instruction: the byte tables of R82-R84 and the opcode map of R101. -/
def encode : Instr → Encoded
  | .lit b => .token [b]
  | .litff => .token [Config.esc, Config.esc]
  | .ref dist n => .token ([Config.esc] ++ le16 dist ++ [n])
  | .crc32 a b => .command ⟨0x01, [.bytes a, .bytes b]⟩
  | .adler32 data => .command ⟨0x02, [.bytes data]⟩
  | .filter width height pixels => .command ⟨0x03, [.u32 width, .u32 height, .bytes pixels]⟩
  | .compress data => .command ⟨0x04, [.bytes data]⟩
  | .decompress stream => .command ⟨0x05, [.bytes stream]⟩
  | .writeChunk tag payload => .command ⟨0x06, [.bytes tag, .bytes payload]⟩
  | .makeIhdr width height => .command ⟨0x07, [.u32 width, .u32 height]⟩
  | .assemble ihdr idat => .command ⟨0x08, [.bytes ihdr, .bytes idat]⟩
  | .encodePng width height pixels => .command ⟨0x09, [.u32 width, .u32 height, .bytes pixels]⟩

/-- Decoding of one whole encoded instruction. -/
def decode : Encoded → Except DecodeReject Instr
  | .token bytes =>
    match decodeToken bytes 0 with
    | .ok (i, size) => if size = bytes.length then .ok i else .error .trailingBytes
    | .error e => .error e
  | .command d => decodeCommand d

/-- The bytes of a table row's bits as spec/opcode_table.json numbers them: byte 0 of the token is the most significant byte
of the row's `nbits` bits ("byte 0 is bits 31..24"; DEDUCED, log 13). -/
def tableBytes (nbits w : Nat) : Bytes :=
  (List.range (nbits / 8)).map (fun j => BitVec.ofNat 8 (w >>> (nbits - 8 * (j + 1))))

/-- The operands given to an opcode byte that stands alone in the table. A descriptor has no operand bits (R99), so the least
well-formed operands stand for "operand words of zeros" (DESIGN CHOICE, log 13). -/
def tableOperands (op : Byte) : List Operand :=
  match op.toNat with
  | 0x01 => [.bytes [], .bytes []]
  | 0x02 => [.bytes []]
  | 0x03 => [.u32 1, .u32 1, .bytes [0, 0, 0, 0]]
  | 0x04 => [.bytes []]
  | 0x05 => [.bytes []]
  | 0x06 => [.bytes [0, 0, 0, 0], .bytes []]
  | 0x07 => [.u32 1, .u32 1]
  | 0x08 => [.bytes [], .bytes []]
  | 0x09 => [.u32 1, .u32 1, .bytes [0, 0, 0, 0]]
  | _ => []

/-- What a table row's bits stand for: eight bits that hold an assigned opcode are a command descriptor, and anything else is
the first token of the row's bytes followed by zeros (log 13). -/
def tableEncoded (nbits w : Nat) : Encoded :=
  match decide (nbits = 8), decodeCommand ⟨BitVec.ofNat 8 w, tableOperands (BitVec.ofNat 8 w)⟩ with
  | true, .ok _ => .command ⟨BitVec.ofNat 8 w, tableOperands (BitVec.ofNat 8 w)⟩
  | _, _ =>
    match decodeToken (tableBytes nbits w ++ [0, 0, 0]) 0 with
    | .ok (_, size) => .token ((tableBytes nbits w ++ [0, 0, 0]).take size)
    | .error _ => .token (tableBytes nbits w)

/-- The instruction the decoder reads from the bits `w` of a table row of `nbits` bits. -/
def decodeTableWord (nbits w : Nat) : Option Instr :=
  match decode (tableEncoded nbits w) with
  | .ok i => some i
  | .error _ => none

end Sys2Proof
end

