-- ==== Sys2Proof/Machine/State.lean ====
section
/-! DEFINITION. The state of the block as plain data (10_state.md rules R30-R45, 20_memory.md rules R60-R62, the step phases of
R161 and R190), the response descriptor (R102), the reasons a step can stop, and the state after reset (R45, R250). -/

namespace Sys2Proof.Machine

/-- The outcome of a command (R221). Codes `0x05..0xFF` are never returned, so they have no constructor. -/
inductive Status where
  | ok
  | malformedHeader
  | truncatedToken
  | invalidBackReference
  | checksumMismatch
  deriving DecidableEq, Repr

/-- The result of a command: a u32 or a byte sequence with status `OK`, empty with an error (R101, R102). -/
inductive Result where
  | empty
  | u32 (v : U32)
  | bytes (b : Bytes)
  deriving DecidableEq, Repr

/-- A response descriptor `{ status, result }` (R102). -/
structure Response where
  status : Status
  result : Result
  deriving DecidableEq, Repr

/-- What the host says of the storage it hands over with a command: whether the output storage overlaps an input (R76), and
how many bytes it can hold, `none` being as many as the result needs (R255 duty 4; log 9). -/
structure Storage where
  overlaps : Bool
  room : Option Nat
  deriving DecidableEq, Repr

/-- One command as the host presents it: its descriptor (R99, R100) and its storage. -/
structure Submission where
  desc : Descriptor
  storage : Storage
  deriving DecidableEq, Repr

/-- Which unit walks a byte sequence while the block is `Busy` with a command that has a step form. -/
inductive Walker where
  /-- The Checksum Unit running CRC-32 (R121). -/
  | crc
  /-- The Checksum Unit running Adler-32 (R124). -/
  | adler
  /-- The Scanline Filter (R140). -/
  | filter
  /-- The compressor (R161). -/
  | compressor
  /-- The decompressor (R190). -/
  | decompressor
  deriving DecidableEq, Repr

/-- `phase` (R32). -/
inductive Phase where
  | idle
  | busy (w : Walker)
  deriving DecidableEq, Repr

/-- What one step of the model stands for. The model's own field (log 1). -/
inductive Grain where
  /-- One command is one atomic transition `Idle -> Idle` (R32). -/
  | command
  /-- A command with a step form runs by that form, a token being one step (R182-R187). -/
  | token
  /-- A command with a step form runs by that form, a byte of a `REF` copy being one step (R190). -/
  | micro
  deriving DecidableEq, Repr

/-- The buffers of the command (R60): read-only inputs (R61) and one append-only output (R62). -/
structure Memory where
  inputs : List Bytes
  out : Bytes
  deriving DecidableEq, Repr

/-- The CRC register `c` (R35) and the loop index `j` of R121. -/
structure CrcRegs where
  c : U32
  j : Nat
  deriving DecidableEq, Repr

/-- The Adler registers `a` and `b` (R36) and the loop index `j` of R124. -/
structure AdlerRegs where
  a : Nat
  b : Nat
  j : Nat
  deriving DecidableEq, Repr

/-- Where the filter loop of R140 stands: about to start a row, or inside one (log 17). -/
inductive FilterPhase where
  | row
  | byte
  deriving DecidableEq, Repr

/-- The filter registers `r` and `x` (R40), the operands their walk uses and its phase. -/
structure FilterRegs where
  width : Nat
  height : Nat
  r : Nat
  x : Nat
  fph : FilterPhase
  deriving DecidableEq, Repr

/-- `cph` (R161). -/
inductive EncPhase where
  | pos
  | scan
  | decide
  | done
  deriving DecidableEq, Repr

/-- The encoder position `i` (R34), the match-finder registers (R37), the token bytes emitted so far (R38) and the step phase
(R161). -/
structure EncRegs where
  i : Nat
  d : Nat
  k : Nat
  bestLen : Nat
  bestDist : Nat
  tok : Bytes
  cph : EncPhase
  deriving DecidableEq, Repr

/-- `dph` (R190); the `k` of `COPY(k)` is the register `k` of R39. -/
inductive DecPhase where
  | run
  | copy
  | check
  deriving DecidableEq, Repr

/-- The token pointer `p` (R33), the decoder registers of R39 but for `out`, which is the output buffer of the command, and the
step phase (R190). -/
structure DecRegs where
  p : Nat
  L : Nat
  k : Nat
  dist : BitVec 16
  n : Byte
  dph : DecPhase
  deriving DecidableEq, Repr

/-- The state of the block, its parameter `BUF_CAP`, and the host's side of the command interface. -/
structure State where
  /-- `BUF_CAP` (R7, R78; log 3). -/
  cfg : Params
  /-- What one step stands for (log 1). -/
  grain : Grain
  /-- The host asserts reset (R252); the step that obeys it releases the line (log 19). -/
  resetLine : Bool
  /-- The commands the host has yet to present, oldest first (R71; log 7). -/
  issue : List Submission
  /-- The responses delivered so far, oldest first (R102; log 7). -/
  responses : List Response
  /-- `phase` (R32). -/
  phase : Phase
  /-- The command in flight (R45). -/
  inFlight : Option Submission
  /-- The buffers of the command (R60). -/
  mem : Memory
  /-- R35. -/
  crc : CrcRegs
  /-- R36. -/
  adler : AdlerRegs
  /-- R40. -/
  fil : FilterRegs
  /-- R34, R37, R38. -/
  enc : EncRegs
  /-- R33, R39. -/
  dec : DecRegs
  deriving DecidableEq, Repr

/-- Why the machine stops with a fault. -/
inductive Fault where
  /-- A step form is asked to read a buffer at or past its length, where R11 and R61 define no read. Raised by the step forms of
  the filter, the compressor and the decompressor, only in states no run reaches. Safe: the model stops (log 18). -/
  | readBeyondBuffer
  deriving DecidableEq, Repr

/-- Why the model gives a command or a token no meaning (R229). All are safe: the model has no step where R229 gives none. -/
inductive Refusal where
  /-- Raised by `exec` for an instruction without a meaning; no arm of this model raises it. -/
  | notModelled (mnemonic : String)
  /-- A command while the block is `Busy`, for which the model has no move (R32, R255 duty 5; log 11). Raised by every command. -/
  | busy
  /-- A token while no token region is being walked (R182; log 12). Raised by the three tokens. -/
  | notDecoding
  /-- An opcode R101 does not assign (R229). Raised by the step that accepts a command. -/
  | unassignedOpcode
  /-- An operand list that is not the opcode's (R101; log 10). Raised by the step that accepts a command. -/
  | operandMismatch
  /-- `len(pixels) != width*height*4` (R142, R229). Raised by FILTER and ENCODE_PNG. -/
  | malformedRawImage
  /-- `width = 0` or `height = 0` (R103, R229). Raised by FILTER, MAKE_IHDR and ENCODE_PNG. -/
  | zeroDimension
  /-- A tag that is not 4 bytes (R103, R229). Raised by WRITE_CHUNK. -/
  | badTag
  /-- A length field would overflow 32 bits (R103, R229). Raised by WRITE_CHUNK, ASSEMBLE and ENCODE_PNG. -/
  | lengthFieldOverflow
  /-- An operand, the result, the output buffer or a buffer of the pipeline is over `BUF_CAP` (R78, R207, R229). Raised by every
  command with a `Bytes` operand or result, and by the tokens. -/
  | overCapacity
  /-- The output storage overlaps an input (R76, R229). Raised by every command. -/
  | overlappingBuffers
  /-- The host's output storage has no room for the result (R255 duty 4, R229; log 9). Raised by every command with a `Bytes`
  result. -/
  | outputTooSmall
  deriving DecidableEq, Repr

/-- No buffers: what the block holds when no command has been accepted. -/
def Memory.empty : Memory := ⟨[], []⟩

/-- The state right after reset: `phase = Idle` and no command in flight (R45, R250). The datapath registers are unspecified
there; the model takes zero and empty (DESIGN CHOICE, log 5). `BUF_CAP` is at its default, unbounded (R7). -/
def State.reset : State where
  cfg := ⟨none⟩
  grain := .command
  resetLine := false
  issue := []
  responses := []
  phase := .idle
  inFlight := none
  mem := Memory.empty
  crc := ⟨0, 0⟩
  adler := ⟨0, 0, 0⟩
  fil := ⟨0, 0, 0, 0, .row⟩
  enc := ⟨0, 0, 0, 0, 0, [], .pos⟩
  dec := ⟨0, 0, 0, 0, 0, .run⟩

end Sys2Proof.Machine
end

