-- ==== Sys2Proof/Machine/Flags.lean ====
section
/-! DEFINITION. The block has no flags or condition codes (R41); its only outcome indicator is the status code of a response
(R221), computed here. -/

namespace Sys2Proof.Machine

/-- The 8-bit status code (R221). -/
def Status.code : Status → Byte
  | .ok => 0x00
  | .malformedHeader => 0x01
  | .truncatedToken => 0x02
  | .invalidBackReference => 0x03
  | .checksumMismatch => 0x04

/-- What a host reads of a response's status and result: no result with a nonzero status (R102). -/
def Response.legal (r : Response) : Bool :=
  match r.status, r.result with
  | .ok, .u32 _ => true
  | .ok, .bytes _ => true
  | .ok, .empty => false
  | _, .empty => true
  | _, .u32 _ => false
  | _, .bytes _ => false

end Sys2Proof.Machine
end

