-- ==== Sys2Proof/Machine/Ops.lean ====
section
/-! DEFINITION. The named operations over the buffers and registers (R11, R61, R62), the delivery of a response (R32, R102),
and what an error does (R226), which is this block's whole analogue of taking an exception; there is no return (R227). -/

namespace Sys2Proof.Machine

/-- Whether a length is within a limit; `none` is no limit (R7). -/
def fits (limit : Option Nat) (len : Nat) : Bool :=
  match limit with
  | none => true
  | some m => decide (len ≤ m)

/-- `MemRead(buf, i, 1)`: defined only below the buffer's length (R11, R61). -/
def memRead (buf : Bytes) (i : Nat) : Option Byte := buf[i]?

/-- `MemWrite(out, v)`: append `v` to the output buffer (R11, R62). -/
def Memory.write (m : Memory) (v : Bytes) : Memory := { m with out := m.out ++ v }

/-- The input buffer number `j` of the command (R60). -/
def Memory.input (m : Memory) (j : Nat) : Bytes := m.inputs.getD j []

/-- Whether every input buffer fits `BUF_CAP` (R78). -/
def Memory.wf (cap : Option Nat) (m : Memory) : Bool := m.inputs.all (fun b => fits cap b.length)

/-- The host's storage for the command in flight. -/
def State.storage (s : State) : Storage :=
  match s.inFlight with
  | some sub => sub.storage
  | none => ⟨false, none⟩

/-- The byte sequences among a descriptor's operands, in order: the input buffers of the command (R60). -/
def byteOperands : List Operand → List Bytes
  | [] => []
  | .bytes b :: rest => b :: byteOperands rest
  | .u32 _ :: rest => byteOperands rest

/-- The block accepts the command presented to it: it is in flight, its `Bytes` operands are the input buffers and the output
buffer is empty (R32, R60). -/
def State.accept (s : State) (sub : Submission) (rest : List Submission) : State :=
  { s with issue := rest, inFlight := some sub, mem := ⟨byteOperands sub.desc.operands, []⟩ }

/-- The command completes: its response is delivered and the block returns to `Idle` (R32). -/
def State.complete (s : State) (r : Response) : State :=
  { s with phase := .idle, inFlight := none, responses := s.responses ++ [r] }

/-- A command that goes on: its output buffer is held to `BUF_CAP` (R78), and beyond it the command is refused (R229, log 4). -/
def holdOutput (s : State) : Host.Outcome State Fault Refusal :=
  if fits s.cfg.bufCap s.mem.out.length then .next s else .refused .overCapacity

/-- Completion with status `OK` and a u32 result (R102). -/
def deliverU32 (v : U32) (s : State) : Host.Outcome State Fault Refusal :=
  .next (s.complete ⟨.ok, .u32 v⟩)

/-- Completion with status `OK` and a byte-sequence result, which is then the whole output buffer (R62, R102); refused when the
result exceeds `BUF_CAP` (R78) or the host's storage (R255 duty 4). A step form starts only where this check passes (log 26). -/
def deliverBytes (b : Bytes) (s : State) : Host.Outcome State Fault Refusal :=
  if fits s.cfg.bufCap b.length then
    if fits s.storage.room b.length then
      .next (State.complete { s with mem := { s.mem with out := b } } ⟨.ok, .bytes b⟩)
    else .refused .outputTooSmall
  else .refused .overCapacity

/-- `raise E`, what an error does (R226): the command ends at once with the status of `E` and an empty result, the output bytes
produced so far are discarded, and the block returns to `Idle`. No state is saved and there is no handler. -/
def raise (e : Status) (s : State) : Host.Outcome State Fault Refusal :=
  .next (State.complete { s with mem := { s.mem with out := [] } } ⟨e, .empty⟩)

/-- Reset (R250, R252): the command in flight is abandoned without a response and every register of the block is as after
`State.reset`; the host's own side (what it has yet to issue, what it has been given) and `BUF_CAP` stay. The reset line is released
with it, so a reset lasts one step: the spec gives no reset signal and no release (DESIGN CHOICE, log 19). -/
def State.doReset (s : State) : State :=
  { State.reset with cfg := s.cfg, grain := s.grain, issue := s.issue, responses := s.responses }

end Sys2Proof.Machine
end

