-- ==== Sys2Proof/Machine/Operands.lean ====
section
/-! DEFINITION. The operands of a command as the machine checks them before it runs (R103, R229), in one place for every
command, and the views of its input buffers that the units walk (R86, R90, R181). -/

namespace Sys2Proof.Machine

/-- The `Bytes` operands of an instruction (R101). -/
def buffersOf (i : Instr) : List Bytes :=
  match encode i with
  | .token _ => []
  | .command d => byteOperands d.operands

/-- The image conditions of R103 for FILTER and ENCODE_PNG. -/
def imageRefusal (width height : U32) (pixels : Bytes) : Option Refusal :=
  if width.toNat = 0 ∨ height.toNat = 0 then some .zeroDimension
  else if pixels.length = width.toNat * height.toNat * 4 then none
  else some .malformedRawImage

/-- The condition R103 puts on a command's own operands: `none` when they meet it, else the reason R229 refuses it. -/
def operandRefusal (i : Instr) : Option Refusal :=
  match i with
  | .filter width height pixels => imageRefusal width height pixels
  | .encodePng width height pixels => imageRefusal width height pixels
  | .makeIhdr width height =>
    if width.toNat = 0 ∨ height.toNat = 0 then some .zeroDimension else none
  | .writeChunk tag payload =>
    if tag.length ≠ 4 then some .badTag
    else if payload.length ≤ Config.lenFieldMax then none else some .lengthFieldOverflow
  | .assemble ihdr idat =>
    if ihdr.length ≤ Config.lenFieldMax ∧ idat.length ≤ Config.lenFieldMax then none
    else some .lengthFieldOverflow
  | .lit _ => none
  | .litff => none
  | .ref _ _ => none
  | .crc32 _ _ => none
  | .adler32 _ => none
  | .compress _ => none
  | .decompress _ => none

/-- Whether the block takes a command up (R32, R103, R229): `none` when it does, else why it is refused. The order in which the
reasons are tried is the model's (DESIGN CHOICE, log 23). -/
def whyRefused (i : Instr) (s : State) : Option Refusal :=
  if s.phase ≠ .idle then some .busy
  else if s.storage.overlaps then some .overlappingBuffers
  else if (buffersOf i).all (fun b => fits s.cfg.bufCap b.length) then operandRefusal i
  else some .overCapacity

/-- The token region `T = S[2 .. len(S)-4)` of a compressed stream (R86, R181). -/
def tokenRegion (stream : Bytes) : Bytes := slice stream 2 (stream.length - Config.trailerLen)

/-- The stored trailer `rd_be32(S, len(S) - 4)` (R181). -/
def trailer (stream : Bytes) : U32 := rdBe32 stream (stream.length - Config.trailerLen)

/-- The length and header check of R180. -/
def headerOk (stream : Bytes) : Bool :=
  decide (Config.minStreamLen ≤ stream.length) && decide (byteAt stream 0 = Config.hdr0)
    && decide (byteAt stream 1 = Config.hdr1)

/-- The token region of the command in flight (R181). -/
def State.region (s : State) : Bytes := tokenRegion (s.mem.input 0)

end Sys2Proof.Machine
end

