-- ==== Sys2Proof/Machine/Checksum.lean ====
section
/-! DEFINITION. The Checksum Unit (40_checksum.md): CRC-32 (R120-R122), Adler-32 (R124-R125), and the commands CRC32 (R123) and
ADLER32 (R126). -/

namespace Sys2Proof.Machine

/-- One of the eight shifts of `crc_byte` (R121). -/
def crcShift (c : U32) : U32 :=
  if c.getLsbD 0 then (c >>> 1) ^^^ Config.crcPoly else c >>> 1

/-- `repeat` of R121. -/
def crcShifts : Nat → U32 → U32
  | 0, c => c
  | n + 1, c => crcShifts n (crcShift c)

/-- `crc_byte(x)` (R121). Irreducible, so that no unification runs a CRC. -/
@[irreducible] def crcByte (c : U32) (x : Byte) : U32 := crcShifts 8 (c ^^^ x.setWidth 32)

/-- `crc_start()` (R121). -/
def crcStart : CrcRegs := ⟨Config.crcInit, 0⟩

/-- One turn of the loop of R121, on the byte at index `j`. -/
def CrcRegs.feed (r : CrcRegs) (x : Byte) : CrcRegs := ⟨crcByte r.c x, r.j + 1⟩

/-- The CRC registers when the whole of `s` has been consumed (R121). -/
def crcAfter (s : Bytes) : CrcRegs := s.foldl CrcRegs.feed crcStart

/-- `crc_finish()` (R121). -/
def CrcRegs.finish (r : CrcRegs) : U32 := r.c ^^^ Config.crcInit

/-- `crc32(s)` (R121). -/
def crc32 (s : Bytes) : U32 := (crcAfter s).finish

/-- `crc32(type_tag, payload) = crc32(type_tag ‖ payload)` (R122). -/
def crc32Of (tag payload : Bytes) : U32 := crc32 (tag ++ payload)

/-- `adler_start()` (R124). -/
def adlerStart : AdlerRegs := ⟨Config.adlerA0, Config.adlerB0, 0⟩

/-- `adler_byte(x)`, `b` using the updated `a` (R124), at index `j`. -/
def AdlerRegs.feed (r : AdlerRegs) (x : Byte) : AdlerRegs :=
  let a := (r.a + x.toNat) % Config.adlerMod
  ⟨a, (r.b + a) % Config.adlerMod, r.j + 1⟩

/-- The Adler registers when the whole of `s` has been consumed (R124). -/
def adlerAfter (s : Bytes) : AdlerRegs := s.foldl AdlerRegs.feed adlerStart

/-- `adler_finish()`: `(b << 16) | a`, a u32 (R124). -/
def AdlerRegs.finish (r : AdlerRegs) : U32 := BitVec.ofNat 32 (r.b <<< 16 ||| r.a)

/-- `adler32(s)` (R124). -/
def adler32 (s : Bytes) : U32 := (adlerAfter s).finish

/-- `CRC32 a, b` (R123). -/
def execCrc32 (a b : Bytes) (s : State) : Host.Outcome State Fault Refusal :=
  match whyRefused (.crc32 a b) s with
  | some r => .refused r
  | none => deliverU32 (crc32Of a b) { s with crc := crcAfter (a ++ b) }

/-- `ADLER32 data` (R126). -/
def execAdler32 (data : Bytes) (s : State) : Host.Outcome State Fault Refusal :=
  match whyRefused (.adler32 data) s with
  | some r => .refused r
  | none => deliverU32 (adler32 data) { s with adler := adlerAfter data }

end Sys2Proof.Machine
end

