-- ==== Sys2Proof/Machine/Filter.lean ====
section
/-! DEFINITION. The Scanline Filter (41_filter.md): the Sub delta encoder (R140, R143) and the command FILTER (R141). -/

namespace Sys2Proof.Machine

/-- Bytes of one row of pixels, `W = width*4` (R140). -/
def rowBytes (width : Nat) : Nat := width * Config.bpp

/-- The byte the filter emits for offset `x` of a row: copied in the first pixel, else the difference modulo 256 from the same
channel of the pixel to the left (R140, R143). -/
def subByte (row : Bytes) (x : Nat) : Byte :=
  if x < Config.bpp then byteAt row x else byteAt row x - byteAt row (x - Config.bpp)

/-- One filtered row: the Sub filter type, then `W` delta bytes (R140). -/
def filterRow (W : Nat) (row : Bytes) : Bytes :=
  Config.filterSub :: (List.range W).map (subByte row)

/-- `filter(width, height, pixels)` (R140). -/
def filterImage (width height : Nat) (pixels : Bytes) : Bytes :=
  (List.range height).flatMap
    (fun r => filterRow (rowBytes width) (slice pixels (r * rowBytes width) ((r + 1) * rowBytes width)))

/-- The filter registers when an image has been filtered: every row done, `x` at the end of the last one (R40, R140; log 6). -/
def filterEnd (width height : Nat) : FilterRegs := ⟨width, height, height, rowBytes width, .row⟩

/-- `FILTER width, height, pixels` (R141). -/
def execFilter (width height : U32) (pixels : Bytes) (s : State) : Host.Outcome State Fault Refusal :=
  match whyRefused (.filter width height pixels) s with
  | some r => .refused r
  | none =>
    deliverBytes (filterImage width.toNat height.toNat pixels)
      { s with fil := filterEnd width.toNat height.toNat }

end Sys2Proof.Machine
end

