-- ==== Sys2Proof/Machine/Compressor.lean ====
section
/-! DEFINITION. The Custom Codec's compressor (42_compressor.md): match finder (R152-R154), token encoder (R155-R157), the
compressed stream (R150, R159) and the command COMPRESS (R160). -/

namespace Sys2Proof.Machine

/-- The most bytes a match at `i` may cover, `lim = min(258, n - i)` (R152). -/
def matchLimit (data : Bytes) (i : Nat) : Nat := min Config.maxMatch (data.length - i)

/-- Whether byte `k` of the lookahead at `i` equals byte `k mod d` of the window at distance `d` (R152). -/
def matchesAt (data : Bytes) (i d k : Nat) : Bool :=
  decide (byteAt data (i + k) = byteAt data (i - d + k % d))

/-- The loop of `match_len` (R152), `fuel` being what is left of the limit. -/
def matchLenFrom (data : Bytes) (i d : Nat) : Nat → Nat → Nat
  | 0, k => k
  | fuel + 1, k => if matchesAt data i d k then matchLenFrom data i d fuel (k + 1) else k

/-- `match_len(data, i, d)` (R152). -/
def matchLen (data : Bytes) (i d : Nat) : Nat := matchLenFrom data i d (matchLimit data i) 0

/-- The largest candidate distance at `i`, `min(i, 32768)` (R153). -/
def maxDist (i : Nat) : Nat := min i Config.window

/-- `if k > best_len: best_len <- k; best_dist <- d` (R154). -/
def keepBest (best : Nat × Nat) (k d : Nat) : Nat × Nat := if best.1 < k then (k, d) else best

/-- The loop of `find_match` (R154) over `fuel` candidates from distance `d` upward. -/
def findMatchFrom (data : Bytes) (i : Nat) : Nat → Nat → Nat × Nat → Nat × Nat
  | 0, _, best => best
  | fuel + 1, d, best => findMatchFrom data i fuel (d + 1) (keepBest best (matchLen data i d) d)

/-- `find_match(data, i)`: `(best_len, best_dist)` (R154). -/
def findMatch (data : Bytes) (i : Nat) : Nat × Nat := findMatchFrom data i (maxDist i) 1 (0, 0)

/-- The emit decision of R155. -/
def emitsRef (bestLen bestDist : Nat) : Bool :=
  decide (Config.minMatch ≤ bestLen) && decide (lo8 bestDist ≠ Config.esc)

/-- The length a back-reference token claims, `m = min(best_len, 255)` (R156). -/
def tokenLen (len : Nat) : Nat := min len Config.maxTokenLen

/-- The bytes of `emit_ref(dist, len)` (R156). -/
def refBytes (dist len : Nat) : Bytes := [Config.esc, lo8 dist, hi8 dist, lo8 (tokenLen len)]

/-- The bytes of `emit_lit(b)` (R157). -/
def litBytes (b : Byte) : Bytes := if b = Config.esc then [Config.esc, Config.esc] else [b]

/-- `emit_ref` on the encoder's registers (R156). -/
def EncRegs.emitRef (e : EncRegs) : EncRegs :=
  { e with tok := e.tok ++ refBytes e.bestDist e.bestLen, i := e.i + tokenLen e.bestLen, cph := .pos }

/-- `emit_lit` on the encoder's registers (R157). -/
def EncRegs.emitLit (e : EncRegs) (b : Byte) : EncRegs :=
  { e with tok := e.tok ++ litBytes b, i := e.i + 1, cph := .pos }

/-- The start of compression (R150, R161). -/
def EncRegs.start (e : EncRegs) : EncRegs := { e with tok := [], i := 0, cph := .pos }

/-- The match-finder registers when every candidate at `i` has been tried (R37, R154): the best match, the last distance tried
and the length measured for it; at `i = 0` there is no candidate (R153; log 6). -/
def EncRegs.search (data : Bytes) (e : EncRegs) : EncRegs :=
  { e with
    bestLen := (findMatch data e.i).1
    bestDist := (findMatch data e.i).2
    d := if 1 ≤ e.i then maxDist e.i else 1
    k := if 1 ≤ e.i then matchLen data e.i (maxDist e.i) else 0 }

/-- The turn of the loop of R150 at position `i`: find the best match, then emit one token. -/
def EncRegs.visit (data : Bytes) (e : EncRegs) : EncRegs :=
  let found := e.search data
  if emitsRef found.bestLen found.bestDist then found.emitRef else found.emitLit (byteAt data e.i)

/-- The loop of R150: `while i < n`. Every turn advances `i` (R151), so `n` turns are enough. -/
def EncRegs.loop (data : Bytes) : Nat → EncRegs → EncRegs
  | 0, e => e
  | fuel + 1, e => if e.i < data.length then EncRegs.loop data fuel (e.visit data) else e

/-- The encoder's registers when `data` has been compressed, from what they held before (R150; log 6). -/
def EncRegs.compressed (data : Bytes) (e : EncRegs) : EncRegs :=
  { EncRegs.loop data data.length e.start with cph := .done }

/-- The token bytes of `compress(data)` (R150). -/
def tokensOf (data : Bytes) : Bytes := (EncRegs.compressed data State.reset.enc).tok

/-- The fixed header of a compressed stream (R86, R159). -/
def streamHeader : Bytes := [Config.hdr0, Config.hdr1]

/-- `compress(data)` (R150, R159). -/
def compress (data : Bytes) : Bytes := streamHeader ++ tokensOf data ++ be32 (adler32 data)

/-- The registers that COMPRESS leaves: the encoder at `i = n`, the Adler sums of `data` (R150, R159). -/
def State.afterCompress (s : State) (data : Bytes) : State :=
  { s with enc := s.enc.compressed data, adler := adlerAfter data }

/-- `COMPRESS data` (R160). -/
def execCompress (data : Bytes) (s : State) : Host.Outcome State Fault Refusal :=
  match whyRefused (.compress data) s with
  | some r => .refused r
  | none => deliverBytes (compress data) (s.afterCompress data)

end Sys2Proof.Machine
end

