-- ==== Sys2Proof/Machine/Decompressor.lean ====
section
/-! DEFINITION. The Custom Codec's decompressor (43_decompressor.md): the tokens LIT (R183), LITFF (R184) and REF (R185-R187),
the whole function (R189) and the command DECOMPRESS. -/

namespace Sys2Proof.Machine

/-- What the token walk works on: the decoder's registers and the output so far (R39). -/
structure Walk where
  regs : DecRegs
  out : Bytes
  deriving DecidableEq, Repr

/-- Append to the output and advance the token pointer (R183, R184). -/
def Walk.put (w : Walk) (v : Bytes) (size : Nat) : Walk :=
  ⟨{ w.regs with p := w.regs.p + size }, w.out ++ v⟩

/-- The fields of a `REF` after its fetch (R185). -/
def Walk.fetchRef (w : Walk) (dist : BitVec 16) (n : Byte) : Walk :=
  { w with regs := { w.regs with dist := dist, n := n } }

/-- The validation of R186: whether a `REF` may be executed after `len` bytes of output. -/
def refValid (len : Nat) (dist : BitVec 16) (n : Byte) : Bool :=
  decide (dist.toNat ≠ 0) && decide (dist.toNat ≤ len) && decide (n.toNat ≠ 0)

/-- The bytes a `REF` appends: `out[L - dist + (k mod dist)]` for `k` in `0..n`, `L` latched at its start (R187, C5). -/
def copyBytes (out : Bytes) (dist n : Nat) : Bytes :=
  (List.range n).map (fun k => byteAt out (out.length - dist + k % dist))

/-- The execution of a validated `REF` (R187): `L` latched, `n` bytes appended, `p` advanced by 4, the copy counter at `n`. -/
def Walk.runRef (w : Walk) : Walk :=
  ⟨{ w.regs with L := w.out.length, k := w.regs.n.toNat, p := w.regs.p + 4 },
    w.out ++ copyBytes w.out w.regs.dist.toNat w.regs.n.toNat⟩

/-- The token walk of R189 on the token region `T`; the status is `ok` when the walk ends with `p = len(T)`. Every token
advances `p`, so `len(T)` turns are enough (R191). -/
def Walk.loop (T : Bytes) : Nat → Walk → Walk × Status
  | 0, w => (w, .ok)
  | fuel + 1, w =>
    let p := w.regs.p
    if T.length ≤ p then (w, .ok)
    else if byteAt T p ≠ Config.esc then Walk.loop T fuel (w.put [byteAt T p] 1)
    else if T.length ≤ p + 1 then (w, .truncatedToken)
    else if byteAt T (p + 1) = Config.esc then Walk.loop T fuel (w.put [Config.esc] 2)
    else if T.length - p < 4 then (w, .truncatedToken)
    else
      let fetched := w.fetchRef (rdLe16 T (p + 1)) (byteAt T (p + 3))
      if refValid w.out.length fetched.regs.dist fetched.regs.n then Walk.loop T fuel fetched.runRef
      else (fetched, .invalidBackReference)

/-- The start of the token walk: `out <- []`, `p <- 0` (R182). -/
def DecRegs.start (r : DecRegs) : DecRegs := { r with p := 0, dph := .run }

/-- The token walk over a whole token region (R182). -/
def walkRegion (T : Bytes) (r : DecRegs) : Walk × Status := Walk.loop T T.length ⟨r.start, []⟩

/-- The output of the token walk of a stream when it ends, or stops at an error (R182, R226). -/
def decodedOutput (stream : Bytes) : Bytes := (walkRegion (tokenRegion stream) State.reset.dec).1.out

/-- `decompress(S)` (R189): the response to a stream. -/
def decompress (stream : Bytes) : Response :=
  if headerOk stream then
    match walkRegion (tokenRegion stream) State.reset.dec with
    | (w, .ok) =>
      if adler32 w.out = trailer stream then ⟨.ok, .bytes w.out⟩ else ⟨.checksumMismatch, .empty⟩
    | (_, e) => ⟨e, .empty⟩
  else ⟨.malformedHeader, .empty⟩

/-- The registers after a token walk. -/
def State.afterWalk (s : State) (w : Walk) : State :=
  { s with dec := w.regs, mem := { s.mem with out := w.out } }

/-- The decoder's part of the state. -/
def State.walk (s : State) : Walk := ⟨s.dec, s.mem.out⟩

/-- The checksum check that ends DECOMPRESS (R188). -/
def checkTrailer (stream : Bytes) (s : State) : Host.Outcome State Fault Refusal :=
  let s' := { s with adler := adlerAfter s.mem.out }
  if adler32 s.mem.out = trailer stream then deliverBytes s.mem.out s' else raise .checksumMismatch s'

/-- The end of the token walk: the checksum check, or the error of the token that failed (R188, R226). -/
def endWalk (stream : Bytes) (s : State) : Walk × Status → Host.Outcome State Fault Refusal
  | (w, .ok) => checkTrailer stream (s.afterWalk ⟨{ w.regs with dph := .check }, w.out⟩)
  | (w, e) => raise e (s.afterWalk w)

/-- The whole of DECOMPRESS once its operand is accepted (R180-R189), in the priority order of R228. The output buffer only grows
during the walk (R62), so holding it to `BUF_CAP` where the walk ends holds it there throughout (R78, log 4). -/
def runDecompress (stream : Bytes) (s : State) : Host.Outcome State Fault Refusal :=
  if headerOk stream then
    let walked := walkRegion (tokenRegion stream) s.dec
    if fits s.cfg.bufCap walked.1.out.length then endWalk stream s walked else .refused .overCapacity
  else raise .malformedHeader s

/-- `DECOMPRESS stream` (R189). -/
def execDecompress (stream : Bytes) (s : State) : Host.Outcome State Fault Refusal :=
  match whyRefused (.decompress stream) s with
  | some r => .refused r
  | none => runDecompress stream s

/-- Whether a token may be executed: the decompressor is walking a token region and is in `RUN`, where it
executes a token (R182, R190; log 12). The walk executes only the token decoded at `p`; that `exec` also runs a term which is not
that token, even where `p = len(T)` or the term is longer than what is left of `T` so that `p` passes `len(T)`, is the model's
choice, which no step meets (DESIGN CHOICE, log 28). -/
def State.atToken (s : State) : Bool :=
  decide (s.phase = .busy .decompressor) && decide (s.dec.dph = .run)

/-- `LIT b` (R183). R183 gives `LIT` only `b != 0xFF`, which is all that decoding yields; the term `LIT 0xFF` runs by the same
pseudocode (DESIGN CHOICE, log 27). -/
def execLit (b : Byte) (s : State) : Host.Outcome State Fault Refusal :=
  if s.atToken then holdOutput (s.afterWalk (s.walk.put [b] 1)) else .refused .notDecoding

/-- `LITFF` (R184). -/
def execLitff (s : State) : Host.Outcome State Fault Refusal :=
  if s.atToken then holdOutput (s.afterWalk (s.walk.put [Config.esc] 2)) else .refused .notDecoding

/-- `REF dist, n`: validation (R186), raised before any byte is appended, then execution (R187). Decoding yields no
distance with low byte `0xFF` (R85); a `REF` term with one runs by the same rules (DESIGN CHOICE, log 27). -/
def execRef (dist : BitVec 16) (n : Byte) (s : State) : Host.Outcome State Fault Refusal :=
  if s.atToken then
    if refValid s.mem.out.length dist n then holdOutput (s.afterWalk (s.walk.fetchRef dist n).runRef)
    else raise .invalidBackReference (s.afterWalk (s.walk.fetchRef dist n))
  else .refused .notDecoding

end Sys2Proof.Machine
end

