-- ==== Sys2Proof/Machine/Framer.lean ====
section
/-! DEFINITION. The Chunk Framer, the IHDR builder and the pipeline (44_framer.md): WRITE_CHUNK (R201), MAKE_IHDR (R203),
ASSEMBLE (R205) and ENCODE_PNG (R207). -/

namespace Sys2Proof.Machine

/-- `write_chunk(tag, payload)` (R200, R92). -/
def writeChunk (tag payload : Bytes) : Bytes :=
  be32 (BitVec.ofNat 32 payload.length) ++ tag ++ payload ++ be32 (crc32Of tag payload)

/-- `make_ihdr(width, height)` (R202, R94): big-endian dimensions (PRESUMED, log 16), bit depth, colour type, and the three
zero method bytes. -/
def makeIhdr (width height : U32) : Bytes :=
  be32 width ++ be32 height ++ [Config.bitDepth, Config.colorType, 0x00, 0x00, 0x00]

/-- `assemble(ihdr_payload, idat_payload)` (R204, R95). -/
def assemble (ihdr idat : Bytes) : Bytes :=
  Config.pngSig ++ writeChunk Config.tagIhdr ihdr ++ writeChunk Config.tagIdat idat
    ++ writeChunk Config.tagIend []

/-- The compressed stream the pipeline puts into IDAT (R206). -/
def pipelineStream (width height : U32) (pixels : Bytes) : Bytes :=
  compress (filterImage width.toNat height.toNat pixels)

/-- `encode_png(width, height, pixels)` (R206). -/
def encodePng (width height : U32) (pixels : Bytes) : Bytes :=
  assemble (makeIhdr width height) (pipelineStream width height pixels)

/-- The CRC registers after a chunk has been framed (R127, R200). -/
def State.afterChunk (s : State) (tag payload : Bytes) : State := { s with crc := crcAfter (tag ++ payload) }

/-- The registers the pipeline leaves: filter, encoder and Adler as their commands leave them, CRC after the IEND chunk (R206). -/
def State.afterPipeline (s : State) (width height : U32) (pixels : Bytes) : State :=
  { s with
    fil := filterEnd width.toNat height.toNat
    enc := s.enc.compressed (filterImage width.toNat height.toNat pixels)
    adler := adlerAfter (filterImage width.toNat height.toNat pixels)
    crc := crcAfter Config.tagIend }

/-- `WRITE_CHUNK tag, payload` (R201). -/
def execWriteChunk (tag payload : Bytes) (s : State) : Host.Outcome State Fault Refusal :=
  match whyRefused (.writeChunk tag payload) s with
  | some r => .refused r
  | none => deliverBytes (writeChunk tag payload) (s.afterChunk tag payload)

/-- `MAKE_IHDR width, height` (R203). -/
def execMakeIhdr (width height : U32) (s : State) : Host.Outcome State Fault Refusal :=
  match whyRefused (.makeIhdr width height) s with
  | some r => .refused r
  | none => deliverBytes (makeIhdr width height) s

/-- `ASSEMBLE ihdr_payload, idat_payload` (R205). -/
def execAssemble (ihdr idat : Bytes) (s : State) : Host.Outcome State Fault Refusal :=
  match whyRefused (.assemble ihdr idat) s with
  | some r => .refused r
  | none => deliverBytes (assemble ihdr idat) { s with crc := crcAfter Config.tagIend }

/-- The limits R103 and R207 put on what the pipeline makes: the IDAT length field, and `BUF_CAP` for the filtered buffer and
the compressed stream. -/
def pipelineRefusal (width height : U32) (pixels : Bytes) (s : State) : Option Refusal :=
  if Config.lenFieldMax < (pipelineStream width height pixels).length then some .lengthFieldOverflow
  else if fits s.cfg.bufCap (filterImage width.toNat height.toNat pixels).length
      && fits s.cfg.bufCap (pipelineStream width height pixels).length then none
  else some .overCapacity

/-- `ENCODE_PNG width, height, pixels` (R207). -/
def execEncodePng (width height : U32) (pixels : Bytes) (s : State) : Host.Outcome State Fault Refusal :=
  match whyRefused (.encodePng width height pixels) s with
  | some r => .refused r
  | none =>
    match pipelineRefusal width height pixels s with
    | some r => .refused r
    | none => deliverBytes (encodePng width height pixels) (s.afterPipeline width height pixels)

end Sys2Proof.Machine
end

