-- ==== Sys2Proof/Machine/StepForm.lean ====
section
/-! DEFINITION. The step forms (R12, R44): the state at the start of a walk (R251), and one step of the Checksum Unit (R121,
R124), the Scanline Filter (R140), the compressor (R161) and the decompressor (R190). -/

namespace Sys2Proof.Machine

/-- The block at the start of a command's step form, `Busy` (R32), with the registers the command uses set (R251). `none` for a
command to which the spec gives no step form (log 24), and for a stream that fails the header check before any walk (R180). -/
def State.walkStart (s : State) (i : Instr) : Option State :=
  match i with
  | .crc32 _ _ => some { s with phase := .busy .crc, crc := crcStart }
  | .adler32 _ => some { s with phase := .busy .adler, adler := adlerStart }
  | .filter width height _ =>
    some { s with
      phase := .busy .filter
      fil := ⟨width.toNat, height.toNat, 0, 0, .row⟩
      mem := { s.mem with out := [] } }
  | .compress _ =>
    some { s with
      phase := .busy .compressor
      enc := s.enc.start
      mem := { s.mem with out := streamHeader } }
  | .decompress stream =>
    if headerOk stream then
      some { s with
        phase := .busy .decompressor
        dec := s.dec.start
        mem := { s.mem with out := [] } }
    else none
  | .writeChunk _ _ => none
  | .makeIhdr _ _ => none
  | .assemble _ _ => none
  | .encodePng _ _ _ => none
  | .lit _ => none
  | .litff => none
  | .ref _ _ => none

/-- One turn of the loop of R121 over `a ‖ b`, or its end. -/
def tickCrc (s : State) : Host.Outcome State Fault Refusal :=
  match memRead s.mem.inputs.flatten s.crc.j with
  | some x => .next { s with crc := s.crc.feed x }
  | none => deliverU32 s.crc.finish s

/-- One turn of the loop of R124, or its end. -/
def tickAdler (s : State) : Host.Outcome State Fault Refusal :=
  match memRead (s.mem.input 0) s.adler.j with
  | some x => .next { s with adler := s.adler.feed x }
  | none => deliverU32 s.adler.finish s

/-- The byte of R140 at offset `x` of row `r`, read from the pixel buffer. -/
def filterRead (pixels : Bytes) (f : FilterRegs) : Option Byte :=
  let at0 := f.r * rowBytes f.width + f.x
  if f.x < Config.bpp then memRead pixels at0
  else
    match memRead pixels at0, memRead pixels (at0 - Config.bpp) with
    | some v, some left => some (v - left)
    | _, _ => none

/-- One step of the filter's walk in row-major order (R40, R140; log 17). -/
def tickFilter (s : State) : Host.Outcome State Fault Refusal :=
  let f := s.fil
  match f.fph with
  | .row =>
    if f.height ≤ f.r then deliverBytes s.mem.out s
    else holdOutput { s with fil := { f with x := 0, fph := .byte }, mem := s.mem.write [Config.filterSub] }
  | .byte =>
    if f.x < rowBytes f.width then
      match filterRead (s.mem.input 0) f with
      | some v => holdOutput { s with fil := { f with x := f.x + 1 }, mem := s.mem.write [v] }
      | none => .fault .readBeyondBuffer
    else .next { s with fil := { f with r := f.r + 1, fph := .row } }

/-- The end of a candidate in SCAN (R161): keep the better match, then the next distance or DECIDE. -/
def EncRegs.nextCandidate (e : EncRegs) : EncRegs :=
  let best := keepBest (e.bestLen, e.bestDist) e.k e.d
  let kept := { e with bestLen := best.1, bestDist := best.2 }
  if e.d < maxDist e.i then { kept with d := e.d + 1, k := 0 } else { kept with cph := .decide }

/-- One step of the compressor's step form (R161). The check of the result in DONE speaks only of states no run reaches: a run
has made it before the walk starts (`startCommand`, log 26). -/
def tickCompressor (s : State) : Host.Outcome State Fault Refusal :=
  let data := s.mem.input 0
  let e := s.enc
  match e.cph with
  | .pos =>
    if data.length ≤ e.i then .next { s with enc := { e with cph := .done } }
    else
      .next { s with enc := { e with
        bestLen := 0, bestDist := 0, d := 1, k := 0
        cph := if 1 ≤ e.i then .scan else .decide } }
  | .scan =>
    if e.k < matchLimit data e.i then
      match memRead data (e.i + e.k), memRead data (e.i - e.d + e.k % e.d) with
      | some x, some y =>
        if x = y then .next { s with enc := { e with k := e.k + 1 } }
        else .next { s with enc := e.nextCandidate }
      | _, _ => .fault .readBeyondBuffer
    else .next { s with enc := e.nextCandidate }
  | .decide =>
    if emitsRef e.bestLen e.bestDist then .next { s with enc := e.emitRef }
    else
      match memRead data e.i with
      | some b => .next { s with enc := e.emitLit b }
      | none => .fault .readBeyondBuffer
  | .done =>
    deliverBytes (s.mem.out ++ e.tok ++ be32 (adler32 data)) { s with adler := adlerAfter data }

/-- A token in the step form of R190: a `REF` is fetched, validated and latched in one step, which enters `COPY(0)`; a literal
is executed whole. -/
def tickToken (i : Instr) (s : State) : Host.Outcome State Fault Refusal :=
  match i with
  | .lit b => execLit b s
  | .litff => execLitff s
  | .ref dist n =>
    if refValid s.mem.out.length dist n then
      .next { s with dec := { s.dec with dist := dist, n := n, L := s.mem.out.length, k := 0, dph := .copy } }
    else raise .invalidBackReference (s.afterWalk (s.walk.fetchRef dist n))
  | .crc32 _ _ => .refused .busy
  | .adler32 _ => .refused .busy
  | .filter _ _ _ => .refused .busy
  | .compress _ => .refused .busy
  | .decompress _ => .refused .busy
  | .writeChunk _ _ => .refused .busy
  | .makeIhdr _ _ => .refused .busy
  | .assemble _ _ => .refused .busy
  | .encodePng _ _ _ => .refused .busy

/-- One step of `COPY(k)` (R190): append one byte, or end the `REF`. -/
def tickCopy (s : State) : Host.Outcome State Fault Refusal :=
  let r := s.dec
  if r.k < r.n.toNat then
    match memRead s.mem.out (r.L - r.dist.toNat + r.k % r.dist.toNat) with
    | some b => holdOutput { s with dec := { r with k := r.k + 1 }, mem := s.mem.write [b] }
    | none => .fault .readBeyondBuffer
  else .next { s with dec := { r with p := r.p + 4, dph := .run } }

end Sys2Proof.Machine
end

