-- ==== Sys2Proof/Machine/Dispatch.lean ====
section
/-! DEFINITION. One arm per instruction, each a direct call of its meaning. -/

namespace Sys2Proof.Machine

def exec (i : Instr) (s : State) : Host.Outcome State Fault Refusal :=
  match i with
  | .lit b => Sys2Proof.Machine.execLit b s
  | .litff => Sys2Proof.Machine.execLitff s
  | .ref dist n => Sys2Proof.Machine.execRef dist n s
  | .crc32 a b => Sys2Proof.Machine.execCrc32 a b s
  | .adler32 data => Sys2Proof.Machine.execAdler32 data s
  | .filter width height pixels => Sys2Proof.Machine.execFilter width height pixels s
  | .compress data => Sys2Proof.Machine.execCompress data s
  | .decompress stream => Sys2Proof.Machine.execDecompress stream s
  | .writeChunk tag payload => Sys2Proof.Machine.execWriteChunk tag payload s
  | .makeIhdr width height => Sys2Proof.Machine.execMakeIhdr width height s
  | .assemble ihdr idat => Sys2Proof.Machine.execAssemble ihdr idat s
  | .encodePng width height pixels => Sys2Proof.Machine.execEncodePng width height pixels s

end Sys2Proof.Machine
end

