-- ==== Sys2Proof/Machine/Fetch.lean ====
section
/-! DEFINITION. What a step fetches: while `Idle`, the next command the host presents (R32, R71, R99); while `Busy`, the next
step of the unit that walks, which for the decompressor is the token at `p` (R182); and where the host's table word is put. -/

namespace Sys2Proof.Machine

/-- Why a descriptor that is no command is refused (R229). -/
def refusalOf : DecodeReject → Refusal
  | .unassignedOpcode => .unassignedOpcode
  | .operandMismatch => .operandMismatch
  | .endOfRegion => .operandMismatch
  | .truncatedToken => .operandMismatch
  | .trailingBytes => .operandMismatch

/-- The start of a command that runs by its step form. A command that is refused, by its operands or by its result, gets no step
(R229), so the function form is asked first, and no walk that starts is refused later (log 26); a command without a walk is one
transition here too. -/
def startCommand (i : Instr) (s : State) : Host.Outcome State Fault Refusal :=
  match exec i s with
  | .refused r => .refused r
  | .fault f => .fault f
  | .next t =>
    match s.walkStart i with
    | some walking => .next walking
    | none => .next t

/-- Run a command that has been accepted: whole (R32), or by the start of its step form (R161, R190). -/
def runCommand (i : Instr) (s : State) : Host.Outcome State Fault Refusal :=
  match s.grain with
  | .command => exec i s
  | .token => startCommand i s
  | .micro => startCommand i s

/-- One step while `Idle`: nothing changes until the host presents a command (log 8). -/
def stepIdle (s : State) : Host.Outcome State Fault Refusal :=
  match s.issue with
  | [] => .next s
  | sub :: rest =>
    match decodeCommand sub.desc with
    | .error e => .refused (refusalOf e)
    | .ok i => runCommand i (s.accept sub rest)

/-- Run the token at `p`: whole (R183, R184, R187), or by the step form of R190. -/
def runToken (i : Instr) (s : State) : Host.Outcome State Fault Refusal :=
  match s.grain with
  | .command => exec i s
  | .token => exec i s
  | .micro => tickToken i s

/-- One step in `RUN` (R182, R190): the token at `p`, or on to `CHECK` at the end of the token region. -/
def stepRun (s : State) : Host.Outcome State Fault Refusal :=
  if s.region.length ≤ s.dec.p then .next { s with dec := { s.dec with dph := .check } }
  else
    match decodeToken s.region s.dec.p with
    | .error _ => raise .truncatedToken s
    | .ok (i, _) => runToken i s

/-- One step of the decompressor (R190). -/
def tickDecompressor (s : State) : Host.Outcome State Fault Refusal :=
  match s.dec.dph with
  | .run => stepRun s
  | .copy => tickCopy s
  | .check => checkTrailer (s.mem.input 0) s

/-- One step while `Busy`. -/
def stepBusy (w : Walker) (s : State) : Host.Outcome State Fault Refusal :=
  match w with
  | .crc => tickCrc s
  | .adler => tickAdler s
  | .filter => tickFilter s
  | .compressor => tickCompressor s
  | .decompressor => tickDecompressor s

/-- A state whose next step executes the token with these bytes: DECOMPRESS walking a token region that holds nothing else, with
`p = 0` (R86, R182; log 14). The spec presents no token alone. The output so far stays what the state holds, as if earlier tokens
had produced it, although R182 starts a walk with an empty one: so a `REF` placed alone can be valid (DESIGN CHOICE, log 14). -/
def State.presentToken (s : State) (bytes : Bytes) : State :=
  let stream := streamHeader ++ bytes ++ [0, 0, 0, 0]
  { s with
    grain := .command
    resetLine := false
    phase := .busy .decompressor
    inFlight := some ⟨⟨0x05, [.bytes stream]⟩, ⟨false, none⟩⟩
    mem := { s.mem with inputs := [stream] }
    dec := s.dec.start }

/-- A state whose next step accepts this command: the block is `Idle` and the host presents it (R99; log 14). -/
def State.presentCommand (s : State) (d : Descriptor) : State :=
  { s with
    grain := .command
    resetLine := false
    phase := .idle
    inFlight := none
    issue := ⟨d, ⟨false, none⟩⟩ :: s.issue }

/-- Put an encoded instruction where the next step fetches it. -/
def State.present (s : State) : Encoded → State
  | .token bytes => s.presentToken bytes
  | .command d => s.presentCommand d

end Sys2Proof.Machine
end

