-- ==== Sys2Proof/Machine/Step.lean ====
section
/-! DEFINITION. One step of the machine, and where a word of the opcode table is put so that the next step runs it. -/

namespace Sys2Proof.Machine

/-- One step: reset when the host asserts it (R252), else the next command while `Idle` and the unit's next step while `Busy`
(R32). -/
def step (s : State) : Host.Outcome State Fault Refusal :=
  if s.resetLine then .next s.doReset
  else
    match s.phase with
    | .idle => stepIdle s
    | .busy w => stepBusy w s

/-- `s` with the instruction of a table word placed where `step` fetches its next instruction: a command is presented by the
host, a token stands at the start of the token region being walked (log 13, log 14). -/
def State.withFetchWord (s : State) (nbits w : Nat) : State := s.present (tableEncoded nbits w)

end Sys2Proof.Machine
end

