-- ==== Sys2Proof/Safety.lean ====
section
/-! DEFINITION. What counts as a safe run: the invariant every step keeps, when a command may run, and what a host sees of a
state, in the terms the claims use. -/

namespace Sys2Proof.Machine

/-- The encoder's registers while COMPRESS walks `data` (R34, R37, R63). -/
structure EncInv (data : Bytes) (e : EncRegs) : Prop where
  /-- `i` is in `0..n` (R34). -/
  pos : e.i ≤ data.length
  /-- In SCAN there is a byte to cover, and the registers are in the ranges of R37 and R152-R154. -/
  scan : e.cph = .scan → e.i < data.length ∧ 1 ≤ e.d ∧ e.d ≤ maxDist e.i ∧ e.k ≤ matchLimit data e.i
    ∧ e.bestLen ≤ matchLimit data e.i ∧ e.bestDist ≤ maxDist e.i ∧ (1 ≤ e.bestLen → 1 ≤ e.bestDist)
  /-- In DECIDE the best match does not pass the end of `data`. -/
  decide : e.cph = .decide → e.i < data.length ∧ e.bestLen ≤ matchLimit data e.i
    ∧ e.bestDist ≤ maxDist e.i ∧ (1 ≤ e.bestLen → 1 ≤ e.bestDist)
  /-- The walk ends when `i = n` (R34). -/
  done : e.cph = .done → e.i = data.length

/-- The decoder's registers while DECOMPRESS walks the token region `T` (R33, R39, R64). -/
structure DecInv (T out : Bytes) (r : DecRegs) : Prop where
  /-- `p` is in `0..len(T)` (R33). -/
  pos : r.p ≤ T.length
  /-- In COPY(k) the `REF` is validated, lies in the token region, and `k` bytes of it have been appended (R186, R187, R190). -/
  copy : r.dph = .copy → 1 ≤ r.dist.toNat ∧ r.dist.toNat ≤ r.L ∧ r.k ≤ r.n.toNat ∧ out.length = r.L + r.k
    ∧ r.p + 4 ≤ T.length
  /-- The walk ends when `p = len(T)` (R33, R182). -/
  check : r.dph = .check → r.p = T.length

/-- The filter's registers while FILTER walks its image (R40). -/
structure FilInv (pixels : Bytes) (f : FilterRegs) : Prop where
  image : pixels.length = f.height * rowBytes f.width
  row : f.r ≤ f.height
  offset : f.x ≤ rowBytes f.width
  inRow : f.fph = .byte → f.r < f.height

/-- The invariant of the machine. -/
structure State.Inv (s : State) : Prop where
  /-- The block is `Idle` exactly when no command is in flight (R32, R45). -/
  phase : s.phase = .idle ↔ s.inFlight = none
  /-- No input buffer is longer than `BUF_CAP` (R78). -/
  inputs : s.mem.wf s.cfg.bufCap = true
  /-- The output buffer is not longer than `BUF_CAP` (R78). -/
  output : fits s.cfg.bufCap s.mem.out.length = true
  /-- Every response has a result exactly when its status is `OK` (R102). -/
  legal : ∀ r ∈ s.responses, r.legal = true
  /-- No result is longer than `BUF_CAP` (R78). -/
  results : ∀ r ∈ s.responses, ∀ b, r.result = .bytes b → fits s.cfg.bufCap b.length = true
  /-- The Adler sums are in `0..65520` (R36). -/
  sums : s.adler.a ≤ 65520 ∧ s.adler.b ≤ 65520
  crcWalk : s.phase = .busy .crc → s.crc.j ≤ s.mem.inputs.flatten.length
  adlerWalk : s.phase = .busy .adler → s.adler.j ≤ (s.mem.input 0).length
  filterWalk : s.phase = .busy .filter → FilInv (s.mem.input 0) s.fil
  encWalk : s.phase = .busy .compressor → EncInv (s.mem.input 0) s.enc
  decWalk : s.phase = .busy .decompressor → DecInv s.region s.mem.out s.dec

/-- The block can take a command with these `Bytes` operands up: it is `Idle`, the storage overlaps no input, and every operand
fits `BUF_CAP` (R32, R76, R103). -/
def State.ready (s : State) (buffers : List Bytes) : Prop :=
  s.phase = .idle ∧ s.storage.overlaps = false ∧ ∀ b ∈ buffers, fits s.cfg.bufCap b.length = true

/-- There is room for this result: it fits `BUF_CAP` (R78) and the host's storage (R255 duty 4). -/
def State.takes (s : State) (result : Bytes) : Prop :=
  fits s.cfg.bufCap result.length = true ∧ fits s.storage.room result.length = true

/-- The state a command leaves when it completes with a byte-sequence result: that result is the output buffer and is in the
response, and the block is `Idle` (R32, R62, R102). -/
def State.delivered (s : State) (b : Bytes) : State :=
  { s with
    phase := .idle
    inFlight := none
    responses := s.responses ++ [⟨.ok, .bytes b⟩]
    mem := { s.mem with out := b } }

/-- The state an error leaves (R226): the status with an empty result, no output, the block `Idle`. -/
def State.failed (s : State) (e : Status) : State :=
  { s with
    phase := .idle
    inFlight := none
    responses := s.responses ++ [⟨e, .empty⟩]
    mem := { s.mem with out := [] } }

/-- A copy of `count` bytes from `dist` back, byte by byte, each read after the one before it was appended (R164). -/
def byteByByteCopy (dist : Nat) : Nat → Bytes → Bytes
  | 0, out => out
  | count + 1, out => byteByByteCopy dist count (out ++ [byteAt out (out.length - dist)])

/-- Two states that differ at most in what R44 hides: the datapath registers and the buffers. -/
def State.sameVisible (s t : State) : Prop :=
  s.cfg = t.cfg ∧ s.grain = t.grain ∧ s.resetLine = t.resetLine ∧ s.issue = t.issue
    ∧ s.responses = t.responses ∧ s.phase = t.phase

/-- Two outcomes a host cannot tell apart. -/
def sameOutcome : Host.Outcome State Fault Refusal → Host.Outcome State Fault Refusal → Prop
  | .next s, .next t => s.sameVisible t
  | .fault r, .fault q => r = q
  | .refused r, .refused q => r = q
  | _, _ => False

/-- The host has presented a command, the block is about to accept it, and a step stands for a step of a step form (R161,
R190). -/
def State.startsByStepForm (s : State) (sub : Submission) (rest : List Submission) (i : Instr) : Prop :=
  s.resetLine = false ∧ s.phase = .idle ∧ s.issue = sub :: rest ∧ decodeCommand sub.desc = .ok i
    ∧ s.grain ≠ .command

end Sys2Proof.Machine
end

