-- ==== Sys2Proof/Certificates/Slice0/Obligations.lean ====
section
/-! DEFINITION. The statements for the provers, from the numbered rules of spec/. Each docstring names the rules it formalises. -/

open Sys2Proof Sys2Proof.Machine

/-! ### Encoding -/

/-- R82-R85, R100, R101: decoding the encoding of a well-formed instruction gives it back, every operand at every value. -/
def Obligations.DecodeOfEncodeIsTheInstruction : Prop :=
  ∀ i : Instr, i.wf = true → decode (encode i) = .ok i

/-- R85: the token read at `p` is well formed, lies in the token region, and encodes to exactly the bytes it was read from. -/
def Obligations.DecodedTokenReencodes : Prop :=
  ∀ (T : Bytes) (p : Nat) (i : Instr) (size : Nat), decodeToken T p = .ok (i, size) →
    i.wf = true ∧ i.isToken = true ∧ p + size ≤ T.length ∧ encode i = .token (slice T p (p + size))

/-- R101: a descriptor is read as a command exactly when it is that command's encoding. -/
def Obligations.CommandDecodesExactlyItsEncoding : Prop :=
  ∀ (d : Descriptor) (i : Instr), decodeCommand d = .ok i ↔ encode i = .command d

/-- R82-R85, R101: words written out from the tables of the spec decode to what they stand for. -/
def Obligations.SpecWordsDecode : Prop :=
  decodeToken [0x41] 0 = .ok (.lit 0x41, 1)
    ∧ decodeToken [0xFF, 0xFF] 0 = .ok (.litff, 2)
    ∧ decodeToken [0xFF, 0x03, 0x00, 0x06] 0 = .ok (.ref 3 6, 4)
    ∧ decodeToken [0xFF, 0x00, 0x80, 0xFF] 0 = .ok (.ref 32768 255, 4)
    ∧ decodeToken [0xFF, 0x01, 0x00] 0 = .error .truncatedToken
    ∧ decodeCommand ⟨0x01, [.bytes [1], .bytes [2]]⟩ = .ok (.crc32 [1] [2])
    ∧ decodeCommand ⟨0x07, [.u32 1, .u32 2]⟩ = .ok (.makeIhdr 1 2)
    ∧ decodeCommand ⟨0x0A, []⟩ = .error .unassignedOpcode

/-! ### Steps -/

/-- R32, R71, R99: the block accepts the command the host presents next and runs it as one transition. -/
def Obligations.StepRunsThePresentedCommand : Prop :=
  ∀ (s : State) (sub : Submission) (rest : List Submission) (i : Instr),
    s.resetLine = false → s.phase = .idle → s.grain = .command → s.issue = sub :: rest →
    decodeCommand sub.desc = .ok i → step s = exec i (s.accept sub rest)

/-- R182: while the decompressor is at a token, a step executes the token decoded at the token pointer. -/
def Obligations.StepRunsTheTokenAtThePointer : Prop :=
  ∀ (s : State) (i : Instr) (size : Nat),
    s.resetLine = false → s.phase = .busy .decompressor → s.dec.dph = .run → s.grain ≠ .micro →
    decodeToken s.region s.dec.p = .ok (i, size) → step s = exec i s

/-- R101, R229: a command with an opcode outside `0x01..0x09` is refused. -/
def Obligations.UnassignedOpcodeIsRefused : Prop :=
  ∀ (s : State) (sub : Submission) (rest : List Submission),
    s.resetLine = false → s.phase = .idle → s.issue = sub :: rest →
    (sub.desc.op.toNat = 0 ∨ 10 ≤ sub.desc.op.toNat) → step s = .refused .unassignedOpcode

/-- R223: at a token pointer inside the token region, the step ends the command with `TruncatedToken` exactly when the escape is
the last byte or a `REF` lacks its three following bytes; nothing is recorded besides the status, and no register changes
(log 6). -/
def Obligations.TruncatedTokenExactlyWhenBytesAreMissing : Prop :=
  ∀ s : State, s.resetLine = false → s.phase = .busy .decompressor → s.dec.dph = .run →
    s.dec.p < s.region.length →
    (step s = .next (s.failed .truncatedToken) ↔
      byteAt s.region s.dec.p = 0xFF ∧
        (s.dec.p = s.region.length - 1
          ∨ (byteAt s.region (s.dec.p + 1) ≠ 0xFF ∧ s.region.length - s.dec.p < 4)))

/-- R32, R182, R190, R255 duty 5 (what the model does there is its own: log 11, log 12): a command while `Busy` is refused, and so
is a token unless the decompressor is walking a token region and is at a token, not inside a copy and not at the checksum. -/
def Obligations.WrongPhaseIsRefused : Prop :=
  ∀ (s : State) (i : Instr),
    (i.isToken = false → s.phase ≠ .idle → exec i s = .refused .busy)
      ∧ (i.isToken = true → s.phase ≠ .busy .decompressor ∨ s.dec.dph ≠ .run → exec i s = .refused .notDecoding)

/-! ### Tokens -/

/-- R183: `LIT b` appends `b` to the output and advances `p` by 1, where `BUF_CAP` has room for the byte (R78); everything else is
unchanged. (For `b = 0xFF`, which decoding never yields, and for a term that is not the token at `p`, this is the model's choice:
log 27, log 28.) -/
def Obligations.LitAppendsItsByte : Prop :=
  ∀ (s : State) (b : Byte), s.phase = .busy .decompressor → s.dec.dph = .run →
    fits s.cfg.bufCap (s.mem.out.length + 1) = true →
    exec (.lit b) s = .next { s with
      mem := { s.mem with out := s.mem.out ++ [b] }
      dec := { s.dec with p := s.dec.p + 1 } }

/-- R184: `LITFF` appends `0xFF` to the output and advances `p` by 2, where `BUF_CAP` has room for the byte (R78); everything else
is unchanged. (Where it is not the token at `p`, this is the model's choice: log 28.) -/
def Obligations.LitffAppendsTheEscapeByte : Prop :=
  ∀ s : State, s.phase = .busy .decompressor → s.dec.dph = .run →
    fits s.cfg.bufCap (s.mem.out.length + 1) = true →
    exec .litff s = .next { s with
      mem := { s.mem with out := s.mem.out ++ [0xFF] }
      dec := { s.dec with p := s.dec.p + 2 } }

/-- R187: a valid `REF` latches `L`, appends `n` bytes, the `k`-th being `out[L - dist + (k mod dist)]`, a byte written before
the token started, and advances `p` by 4, where `BUF_CAP` has room for the bytes (R78). Its other registers are its own fields and
its copy counter, which ends at `n` (log 6); all else is unchanged. (For a distance with low byte `0xFF`, which decoding never
yields, and for a term that is not the token at `p`, this is the model's choice: log 27, log 28.) -/
def Obligations.RefCopiesTheLatchedWindow : Prop :=
  ∀ (s : State) (dist : BitVec 16) (n : Byte), s.phase = .busy .decompressor → s.dec.dph = .run →
    1 ≤ dist.toNat → dist.toNat ≤ s.mem.out.length → 1 ≤ n.toNat →
    fits s.cfg.bufCap (s.mem.out.length + n.toNat) = true →
    ∃ out : Bytes,
      exec (.ref dist n) s = .next { s with
        mem := { s.mem with out := s.mem.out ++ out }
        dec := { s.dec with
          p := s.dec.p + 4, L := s.mem.out.length, k := n.toNat, dist := dist, n := n } }
      ∧ out.length = n.toNat
      ∧ ∀ k, k < n.toNat →
          s.mem.out.length - dist.toNat + k % dist.toNat < s.mem.out.length
          ∧ out[k]? = s.mem.out[s.mem.out.length - dist.toNat + k % dist.toNat]?

/-- R187, R164: the output after a valid `REF` is the output before it with `n` bytes appended one at a time, each the byte `dist`
back in the output that has already grown by the ones before it. (For a distance with low byte `0xFF`, which decoding never yields,
and for a term that is not the token at `p`, this is the model's choice: log 27, log 28.) -/
def Obligations.RefIsAByteByByteCopy : Prop :=
  ∀ (s t : State) (dist : BitVec 16) (n : Byte),
    1 ≤ dist.toNat → dist.toNat ≤ s.mem.out.length → 1 ≤ n.toNat → exec (.ref dist n) s = .next t →
    t.mem.out = byteByByteCopy dist.toNat n.toNat s.mem.out
      ∧ t.mem.out.take s.mem.out.length = s.mem.out
      ∧ t.mem.out.length = s.mem.out.length + n.toNat

/-- R186, R226: a `REF` with distance zero, distance beyond the output, or length zero ends the command with
`InvalidBackReference`, with no byte appended and no output left. That its own fields stay latched after the command, and that no
other register changes, is the model's choice (log 6); and so is the outcome for a distance with low byte `0xFF`, which decoding
never yields (log 27), and for a term that is not the token at `p` (log 28). -/
def Obligations.InvalidRefEndsTheCommand : Prop :=
  ∀ (s : State) (dist : BitVec 16) (n : Byte), s.phase = .busy .decompressor → s.dec.dph = .run →
    (dist.toNat = 0 ∨ s.mem.out.length < dist.toNat ∨ n.toNat = 0) →
    exec (.ref dist n) s =
      .next (State.failed { s with dec := { s.dec with dist := dist, n := n } } .invalidBackReference)

/-! ### Checksum Unit -/

/-- R123: `CRC32 a, b` completes with `crc32(a ‖ b)`; the CRC registers are those after `a ‖ b` (log 6), the rest is unchanged. -/
def Obligations.Crc32Completes : Prop :=
  ∀ (s : State) (a b : Bytes), s.ready [a, b] →
    exec (.crc32 a b) s = .next { s with
      crc := crcAfter (a ++ b)
      phase := .idle
      inFlight := none
      responses := s.responses ++ [⟨.ok, .u32 (crc32 (a ++ b))⟩] }

/-- R121: changing one byte of the input changes the CRC, because every step of the register is one-to-one. -/
def Obligations.CrcSeesEveryByte : Prop :=
  ∀ (before after : Bytes) (x y : Byte), x ≠ y → crc32 (before ++ x :: after) ≠ crc32 (before ++ y :: after)

/-- R126: `ADLER32 data` completes with `adler32(data)`; the Adler registers are those after `data` (log 6), the rest is
unchanged. -/
def Obligations.Adler32Completes : Prop :=
  ∀ (s : State) (data : Bytes), s.ready [data] →
    exec (.adler32 data) s = .next { s with
      adler := adlerAfter data
      phase := .idle
      inFlight := none
      responses := s.responses ++ [⟨.ok, .u32 (adler32 data)⟩] }

/-- R124: the two sums in closed form, `a` the sum of the bytes plus one and `b` the sum of all the values of `a`. -/
def Obligations.AdlerSumsInClosedForm : Prop :=
  ∀ s : Bytes,
    (adlerAfter s).a = (1 + (s.map BitVec.toNat).sum) % 65521
      ∧ (adlerAfter s).b =
          (s.length + ((List.range s.length).map (fun j => (s.length - j) * (byteAt s j).toNat)).sum) % 65521

/-- R125: both sums stay in `0..65520`, so the result holds `b` in bits 31..16 and `a` in bits 15..0; the empty input gives 1. -/
def Obligations.AdlerHalvesDoNotOverlap : Prop :=
  (∀ s : Bytes,
    (adlerAfter s).a ≤ 65520 ∧ (adlerAfter s).b ≤ 65520
      ∧ ((adler32 s).extractLsb' 16 16).toNat = (adlerAfter s).b
      ∧ ((adler32 s).extractLsb' 0 16).toNat = (adlerAfter s).a)
    ∧ adler32 [] = 1

/-! ### Scanline Filter -/

/-- R141: `FILTER` of a well-formed image completes with the filtered buffer; only the filter's registers change besides what
delivering the response changes (log 6). -/
def Obligations.FilterCompletes : Prop :=
  ∀ (s : State) (width height : U32) (pixels : Bytes),
    s.ready [pixels] → 1 ≤ width.toNat → 1 ≤ height.toNat →
    pixels.length = width.toNat * height.toNat * 4 →
    s.takes (filterImage width.toNat height.toNat pixels) →
    exec (.filter width height pixels) s =
      .next (State.delivered { s with fil := ⟨width.toNat, height.toNat, height.toNat, width.toNat * 4, .row⟩ }
        (filterImage width.toNat height.toNat pixels))

/-- R140, R144: every byte of the filtered buffer and its length: each row starts with `0x01`, its first four bytes are copied,
and every other byte is the difference modulo 256 from the byte four before it in the same row. -/
def Obligations.FilterBytesAreSubDeltas : Prop :=
  ∀ (width height : Nat) (pixels : Bytes), pixels.length = width * height * 4 →
    (filterImage width height pixels).length = height * (1 + width * 4)
      ∧ ∀ r, r < height →
          (filterImage width height pixels)[r * (1 + width * 4)]? = some 0x01
          ∧ ∀ x, x < width * 4 →
              (filterImage width height pixels)[r * (1 + width * 4) + 1 + x]? = some
                (if x < 4 then byteAt pixels (r * (width * 4) + x)
                 else byteAt pixels (r * (width * 4) + x) - byteAt pixels (r * (width * 4) + x - 4))

/-- R140, R143: the filter loses nothing: two images of one size with equal filtered buffers are equal. -/
def Obligations.FilterLosesNothing : Prop :=
  ∀ (width height : Nat) (p q : Bytes), p.length = width * height * 4 → q.length = width * height * 4 →
    filterImage width height p = filterImage width height q → p = q

/-- R103, R142, R229: every ill-formed command is refused: FILTER and ENCODE_PNG for a zero dimension or a pixel buffer of the wrong
length, MAKE_IHDR for a zero dimension, WRITE_CHUNK for a tag that is not 4 bytes or a payload over `2^32 - 1` bytes, ASSEMBLE for
either payload over `2^32 - 1` bytes, and ENCODE_PNG for a compressed stream over `2^32 - 1` bytes. -/
def Obligations.IllFormedCommandsAreRefused : Prop :=
  ∀ s : State,
    (∀ i : Instr, i.isToken = false → i.wf = false → ∃ r, exec i s = .refused r)
      ∧ (∀ (width height : U32) (pixels : Bytes),
          (width.toNat = 0 ∨ height.toNat = 0 ∨ pixels.length ≠ width.toNat * height.toNat * 4) →
          (∃ r, exec (.filter width height pixels) s = .refused r)
            ∧ ∃ r, exec (.encodePng width height pixels) s = .refused r)
      ∧ (∀ width height : U32, (width.toNat = 0 ∨ height.toNat = 0) →
          ∃ r, exec (.makeIhdr width height) s = .refused r)
      ∧ (∀ tag payload : Bytes, (tag.length ≠ 4 ∨ 2 ^ 32 - 1 < payload.length) →
          ∃ r, exec (.writeChunk tag payload) s = .refused r)
      ∧ (∀ ihdr idat : Bytes, (2 ^ 32 - 1 < ihdr.length ∨ 2 ^ 32 - 1 < idat.length) →
          ∃ r, exec (.assemble ihdr idat) s = .refused r)
      ∧ ∀ (width height : U32) (pixels : Bytes),
          2 ^ 32 - 1 < (compress (filterImage width.toNat height.toNat pixels)).length →
          ∃ r, exec (.encodePng width height pixels) s = .refused r

/-! ### Compressor -/

/-- R160: `COMPRESS data` completes with `compress(data)`; the encoder's registers are those at the end of its loop and the
Adler registers those of `data` (log 6), the rest is unchanged. -/
def Obligations.CompressCompletes : Prop :=
  ∀ (s : State) (data : Bytes), s.ready [data] → s.takes (compress data) →
    exec (.compress data) s =
      .next (State.delivered { s with enc := s.enc.compressed data, adler := adlerAfter data } (compress data))

/-- R152: the match length is at most the limit; every byte below it matches the window read modulo `d`, whose index lies in
`i-d .. i-1`, both indices inside `data`; and it stops only at the limit or at a mismatch. -/
def Obligations.MatchLengthIsMaximal : Prop :=
  ∀ (data : Bytes) (i d : Nat), 1 ≤ d → d ≤ i →
    let m := matchLen data i d
    let lim := min 258 (data.length - i)
    m ≤ lim
      ∧ (∀ k, i - d ≤ i - d + k % d ∧ i - d + k % d ≤ i - 1)
      ∧ (∀ k, k < m → i + k < data.length ∧ data[i + k]? = data[i - d + k % d]?)
      ∧ (m < lim → data[i + m]? ≠ data[i - d + m % d]?)

/-- R153, R154: over the distances `1..min(i, 32768)`, the best match is the longest, at the smallest distance that has it; with
no matching byte at any distance it is `(0, 0)`. -/
def Obligations.FindMatchTakesLongestThenNearest : Prop :=
  ∀ (data : Bytes) (i : Nat),
    let best := findMatch data i
    (∀ d, 1 ≤ d → d ≤ min i 32768 → matchLen data i d ≤ best.1)
      ∧ (best.1 = 0 → best.2 = 0)
      ∧ (1 ≤ best.1 → 1 ≤ best.2 ∧ best.2 ≤ min i 32768 ∧ matchLen data i best.2 = best.1
          ∧ ∀ d, 1 ≤ d → d < best.2 → matchLen data i d < best.1)

/-- R152, R164: the match finder, which reads the window modulo `d`, finds at least `m` bytes exactly when the `m` bytes at `i` match
the window read modulo `d`, and exactly when they match the bytes `d` back, overlapping or not. -/
def Obligations.ModuloMatchIsAnOverlappingMatch : Prop :=
  ∀ (data : Bytes) (i d m : Nat), 1 ≤ d → d ≤ i → m ≤ min 258 (data.length - i) →
    (m ≤ matchLen data i d ↔ ∀ k, k < m → data[i + k]? = data[i - d + k % d]?)
      ∧ (m ≤ matchLen data i d ↔ ∀ k, k < m → data[i + k]? = data[i + k - d]?)

/-- R155-R158, R162: at a position `i` of `data`, one turn of the encoder emits a back-reference exactly when the best match is
at least 4 bytes at a distance whose low byte is not `0xFF`; it is then legal (length 4..255 and inside the data, distance
1..min(i, 32768)), its bytes are `FF lo8 hi8 m`, and `i` advances by `m`. Otherwise the turn emits the byte as a literal, `0xFF`
escaped, and `i` advances by 1. -/
def Obligations.EncoderTurnEmitsALegalToken : Prop :=
  ∀ (data : Bytes) (e : EncRegs), e.i < data.length →
    let best := findMatch data e.i
    let m := min best.1 255
    let t := e.visit data
    (4 ≤ best.1 ∧ lo8 best.2 ≠ 0xFF →
        4 ≤ m ∧ m ≤ 255 ∧ m ≤ data.length - e.i ∧ 1 ≤ best.2 ∧ best.2 ≤ min e.i 32768
        ∧ t.tok = e.tok ++ [0xFF, lo8 best.2, hi8 best.2, lo8 m] ∧ t.i = e.i + m)
      ∧ (best.1 < 4 ∨ lo8 best.2 = 0xFF →
        t.tok = e.tok ++ (if byteAt data e.i = 0xFF then [0xFF, 0xFF] else [byteAt data e.i]) ∧ t.i = e.i + 1)

/-- R163: the length of a compressed stream is between 6 and `2*len(data) + 6`, and it is 6 only for the empty input. -/
def Obligations.CompressedLengthBounds : Prop :=
  ∀ data : Bytes,
    6 ≤ (compress data).length ∧ (compress data).length ≤ 2 * data.length + 6
      ∧ ((compress data).length = 6 ↔ data = [])

/-- R165: the round trip, from any state that can take the command: what COMPRESS delivers, DECOMPRESS turns back into the
data, with status `OK`. -/
def Obligations.CompressRoundTrips : Prop :=
  ∀ (s u : State) (data : Bytes), exec (.compress data) s = .next u →
    ∃ c, u.responses = s.responses ++ [⟨.ok, .bytes c⟩]
      ∧ ∀ v : State, v.ready [c] → v.takes data →
          ∃ w, exec (.decompress c) v = .next w ∧ w.responses = v.responses ++ [⟨.ok, .bytes data⟩]

/-! ### Decompressor -/

/-- R62, R78, R189, R191: `DECOMPRESS` of any stream whose output fits completes, with the one response the function of R189 gives
it, and leaves the input buffers and the host's side unchanged. With `OK` the output buffer is the result. The registers are the
model's choice (log 6): those of the other units are unchanged, and the Adler registers are those of the decoded output where the
checksum check was reached, with `OK` or `ChecksumMismatch`, and unchanged otherwise. -/
def Obligations.DecompressCompletes : Prop :=
  ∀ (s : State) (stream : Bytes), s.ready [stream] →
    (headerOk stream = true → fits s.cfg.bufCap (decodedOutput stream).length = true) →
    (∀ b, decompress stream = ⟨.ok, .bytes b⟩ → fits s.storage.room b.length = true) →
    ∃ t, exec (.decompress stream) s = .next t
      ∧ t.responses = s.responses ++ [decompress stream]
      ∧ t.phase = .idle ∧ t.inFlight = none ∧ t.mem.inputs = s.mem.inputs
      ∧ t.cfg = s.cfg ∧ t.grain = s.grain ∧ t.resetLine = s.resetLine ∧ t.issue = s.issue
      ∧ t.crc = s.crc ∧ t.fil = s.fil ∧ t.enc = s.enc
      ∧ (∀ b, decompress stream = ⟨.ok, .bytes b⟩ → t.mem.out = b ∧ t.adler = adlerAfter b)
      ∧ ((decompress stream).status = .checksumMismatch → t.adler = adlerAfter (decodedOutput stream))
      ∧ ((decompress stream).status ≠ .ok → (decompress stream).status ≠ .checksumMismatch → t.adler = s.adler)

/-- R180, R222: a stream shorter than 6 bytes or without the header `78 9C` completes with `MalformedHeader`, whatever else it
holds; that no register changes is the model's choice (log 6). -/
def Obligations.MalformedHeaderWins : Prop :=
  ∀ (s : State) (stream : Bytes), s.ready [stream] →
    (stream.length < 6 ∨ byteAt stream 0 ≠ 0x78 ∨ byteAt stream 1 ≠ 0x9C) →
    exec (.decompress stream) s = .next (s.failed .malformedHeader)

/-- R226: when DECOMPRESS ends with an error, the response has its status and no result, no output byte is left, and the block is
`Idle`. -/
def Obligations.ErrorsLeaveNoOutput : Prop :=
  ∀ (s t : State) (stream : Bytes), exec (.decompress stream) s = .next t → (decompress stream).status ≠ .ok →
    t.responses = s.responses ++ [⟨(decompress stream).status, .empty⟩] ∧ t.mem.out = [] ∧ t.phase = .idle
      ∧ t.inFlight = none

/-- R188, R189, R225: any change to the trailer of a stream that decodes gives `ChecksumMismatch`. -/
def Obligations.ChangedTrailerIsAChecksumMismatch : Prop :=
  ∀ (S S' data : Bytes), decompress S = ⟨.ok, .bytes data⟩ → S'.length = S.length →
    S'.take (S.length - 4) = S.take (S.length - 4) → S' ≠ S → decompress S' = ⟨.checksumMismatch, .empty⟩

/-- R191: the decoded length is at most `floor(255 * len(T) / 4)`. -/
def Obligations.DecodedLengthBound : Prop :=
  ∀ (S data : Bytes), decompress S = ⟨.ok, .bytes data⟩ → data.length ≤ 255 * (S.length - 6) / 4

/-- R89, R192: the decoder accepts a back-reference of any length 1..255 at any distance 1..65535 that the output reaches,
canonical or not: a stream of literals and one such `REF` decodes to the literals and the bytes it copies. -/
def Obligations.NonCanonicalReferencesAreAccepted : Prop :=
  ∀ (o : Bytes) (dist n : Nat), 1 ≤ dist → dist ≤ 65535 → dist ≤ o.length → lo8 dist ≠ 0xFF → 1 ≤ n → n ≤ 255 →
    decompress ([0x78, 0x9C] ++ (o.flatMap litBytes ++ [0xFF, lo8 dist, hi8 dist, lo8 n])
        ++ be32 (adler32 (o ++ copyBytes o dist n)))
      = ⟨.ok, .bytes (o ++ copyBytes o dist n)⟩

/-! ### Chunk Framer and pipeline -/

/-- R200, R201: `WRITE_CHUNK` completes with length, tag, payload and CRC; only the CRC registers change besides what delivering
the response changes (log 6). -/
def Obligations.WriteChunkCompletes : Prop :=
  ∀ (s : State) (tag payload : Bytes), s.ready [tag, payload] → tag.length = 4 → payload.length ≤ 2 ^ 32 - 1 →
    s.takes (writeChunk tag payload) →
    exec (.writeChunk tag payload) s =
      .next (State.delivered { s with crc := crcAfter (tag ++ payload) }
        (be32 (BitVec.ofNat 32 payload.length) ++ tag ++ payload ++ be32 (crc32 (tag ++ payload))))

/-- R92: chunks are self-delimiting: a byte sequence starts with at most one chunk. -/
def Obligations.ChunksAreSelfDelimiting : Prop :=
  ∀ (tag tag' payload payload' rest rest' : Bytes), tag.length = 4 → tag'.length = 4 →
    payload.length ≤ 2 ^ 32 - 1 → payload'.length ≤ 2 ^ 32 - 1 →
    writeChunk tag payload ++ rest = writeChunk tag' payload' ++ rest' →
    tag = tag' ∧ payload = payload' ∧ rest = rest'

/-- R209: the lengths of a chunk and of an assembled file. -/
def Obligations.FramedLengths : Prop :=
  (∀ tag payload : Bytes, tag.length = 4 → (writeChunk tag payload).length = 12 + payload.length)
    ∧ (∀ h d : Bytes, (assemble h d).length = 44 + h.length + d.length)
    ∧ ∀ h d : Bytes, h.length = 13 → (assemble h d).length = 57 + d.length

/-- R203: `MAKE_IHDR` with positive dimensions completes with the payload of R202; that no register changes, besides what
delivering the response changes, is the model's choice (log 6). -/
def Obligations.MakeIhdrCompletes : Prop :=
  ∀ (s : State) (width height : U32), s.ready [] → 1 ≤ width.toNat → 1 ≤ height.toNat →
    s.takes (makeIhdr width height) →
    exec (.makeIhdr width height) s = .next (s.delivered (makeIhdr width height))

/-- R94, R202: the payload is 13 bytes, holds width and height big-endian (the model's choice follows D11: log 16), and ends
`08 06 00 00 00`. -/
def Obligations.IhdrFieldsReadBack : Prop :=
  ∀ width height : U32,
    (makeIhdr width height).length = 13
      ∧ rdBe32 (makeIhdr width height) 0 = width
      ∧ rdBe32 (makeIhdr width height) 4 = height
      ∧ (makeIhdr width height).drop 8 = [0x08, 0x06, 0x00, 0x00, 0x00]

/-- R204, R205: `ASSEMBLE` completes with the signature and the three chunks in their fixed order; the CRC registers are those
after the last chunk (log 6), the rest is unchanged besides what delivering the response changes. -/
def Obligations.AssembleCompletes : Prop :=
  ∀ (s : State) (ihdr idat : Bytes), s.ready [ihdr, idat] → ihdr.length ≤ 2 ^ 32 - 1 → idat.length ≤ 2 ^ 32 - 1 →
    s.takes (assemble ihdr idat) →
    exec (.assemble ihdr idat) s =
      .next (State.delivered { s with crc := crcAfter [0x49, 0x45, 0x4E, 0x44] }
        ([0x89, 0x50, 0x4E, 0x47, 0x0D, 0x0A, 0x1A, 0x0A] ++ writeChunk [0x49, 0x48, 0x44, 0x52] ihdr
          ++ writeChunk [0x49, 0x44, 0x41, 0x54] idat ++ writeChunk [0x49, 0x45, 0x4E, 0x44] []))

/-- R206, R207: `ENCODE_PNG` of a well-formed image whose compressed stream fits its length field completes with the pipeline's
file; the registers are those the pipeline's units leave (log 6). -/
def Obligations.EncodePngCompletes : Prop :=
  ∀ (s : State) (width height : U32) (pixels : Bytes),
    s.ready [pixels] → 1 ≤ width.toNat → 1 ≤ height.toNat → pixels.length = width.toNat * height.toNat * 4 →
    (compress (filterImage width.toNat height.toNat pixels)).length ≤ 2 ^ 32 - 1 →
    fits s.cfg.bufCap (filterImage width.toNat height.toNat pixels).length = true →
    fits s.cfg.bufCap (compress (filterImage width.toNat height.toNat pixels)).length = true →
    s.takes (assemble (makeIhdr width height) (compress (filterImage width.toNat height.toNat pixels))) →
    exec (.encodePng width height pixels) s =
      .next ((s.afterPipeline width height pixels).delivered
        (assemble (makeIhdr width height) (compress (filterImage width.toNat height.toNat pixels))))

/-- R206: `ENCODE_PNG` gives the bytes that FILTER, COMPRESS, MAKE_IHDR and ASSEMBLE give one after the other, from any states. -/
def Obligations.EncodePngIsTheFourCommands : Prop :=
  ∀ (width height : U32) (pixels : Bytes) (a a' b b' c c' d d' e e' : State),
    exec (.filter width height pixels) a = .next a' →
    exec (.compress a'.mem.out) b = .next b' →
    exec (.makeIhdr width height) c = .next c' →
    exec (.assemble c'.mem.out b'.mem.out) d = .next d' →
    exec (.encodePng width height pixels) e = .next e' →
    e'.mem.out = d'.mem.out

/-- R208: the IEND chunk is always the same 12 bytes, and its CRC is `0xAE426082`. -/
def Obligations.IendChunkIsFixed : Prop :=
  writeChunk [0x49, 0x45, 0x4E, 0x44] []
    = [0x00, 0x00, 0x00, 0x00, 0x49, 0x45, 0x4E, 0x44, 0xAE, 0x42, 0x60, 0x82]
    ∧ crc32Of [0x49, 0x45, 0x4E, 0x44] [] = 0xAE426082

/-- R95, R165, R206, R210: in the file ENCODE_PNG delivers, the IDAT payload decodes, by DECOMPRESS, to the filtered image. -/
def Obligations.IdatPayloadDecodesToTheFilteredImage : Prop :=
  ∀ (s t : State) (width height : U32) (pixels : Bytes), exec (.encodePng width height pixels) s = .next t →
    ∃ file, t.responses = s.responses ++ [⟨.ok, .bytes file⟩]
      ∧ decompress (slice file 41 (file.length - 16))
          = ⟨.ok, .bytes (filterImage width.toNat height.toNat pixels)⟩

/-! ### Errors, refusals, buffers -/

/-- R221: the five status codes. -/
def Obligations.StatusCodesOfTheSpec : Prop :=
  Status.ok.code = 0x00 ∧ Status.malformedHeader.code = 0x01 ∧ Status.truncatedToken.code = 0x02
    ∧ Status.invalidBackReference.code = 0x03 ∧ Status.checksumMismatch.code = 0x04
    ∧ ∀ st : Status, st.code.toNat < 5

/-- R220, R102: every command but DECOMPRESS that completes does so with status `OK` and a result. -/
def Obligations.OnlyDecompressReturnsErrors : Prop :=
  ∀ (i : Instr) (s t : State), i.isToken = false → (∀ stream, i ≠ .decompress stream) → exec i s = .next t →
    ∃ r, r ≠ .empty ∧ t.responses = s.responses ++ [⟨.ok, r⟩]

/-- R76, R78, R229: a command whose storage overlaps an input, or with a `Bytes` operand over `BUF_CAP`, is refused; so is a token
whose bytes would take the output buffer over `BUF_CAP`, and a DECOMPRESS whose output passes it, whatever its status would have
been (log 4); and no instruction that answers a next state takes the output buffer, and so the result, over `BUF_CAP`.
For the token terms that decoding never yields, and those that are not the token at `p`, this is the model's choice (log 27,
log 28). -/
def Obligations.OverlapAndOverCapacityAreRefused : Prop :=
  (∀ (i : Instr) (s : State), i.isToken = false →
    (s.storage.overlaps = true ∨ ∃ d b, encode i = .command d ∧ Operand.bytes b ∈ d.operands
      ∧ fits s.cfg.bufCap b.length = false) →
    ∃ r, exec i s = .refused r)
    ∧ (∀ (s : State) (b : Byte), s.atToken = true → fits s.cfg.bufCap (s.mem.out.length + 1) = false →
        exec (.lit b) s = .refused .overCapacity ∧ exec .litff s = .refused .overCapacity)
    ∧ (∀ (s : State) (dist : BitVec 16) (n : Byte), s.atToken = true →
        1 ≤ dist.toNat → dist.toNat ≤ s.mem.out.length → 1 ≤ n.toNat →
        fits s.cfg.bufCap (s.mem.out.length + n.toNat) = false →
        exec (.ref dist n) s = .refused .overCapacity)
    ∧ (∀ (s : State) (stream : Bytes), headerOk stream = true →
        fits s.cfg.bufCap (decodedOutput stream).length = false → ∃ r, exec (.decompress stream) s = .refused r)
    ∧ ∀ (i : Instr) (s t : State), exec i s = .next t →
        fits s.cfg.bufCap s.mem.out.length = true → fits s.cfg.bufCap t.mem.out.length = true

/-- R61, R62: no instruction, and no step of a walk, writes an input buffer; and as long as the command has not ended, output
bytes are only appended. -/
def Obligations.InputsAreReadOnlyAndOutputAppended : Prop :=
  (∀ (i : Instr) (s t : State), exec i s = .next t → t.mem.inputs = s.mem.inputs)
    ∧ ∀ (s t : State) (w : Walker), s.resetLine = false → s.phase = .busy w → step s = .next t →
        t.mem.inputs = s.mem.inputs ∧ (t.phase ≠ .idle → s.mem.out <+: t.mem.out)

/-! ### Reset and the whole machine -/

/-- R250: after reset the block is `Idle` and no command is in flight. -/
def Obligations.ResetIsIdleWithNothingInFlight : Prop :=
  State.reset.phase = .idle ∧ State.reset.inFlight = none

/-- R252: a reset abandons the command: no response is delivered for it, the block is `Idle` with nothing in flight, and the
host's commands still to be issued are as they were. That the host asserts reset through `resetLine`, and that its own side stays,
is the model's choice (log 19). -/
def Obligations.ResetAbandonsTheCommand : Prop :=
  ∀ s : State, s.resetLine = true →
    ∃ t, step s = .next t ∧ t.phase = .idle ∧ t.inFlight = none ∧ t.responses = s.responses ∧ t.issue = s.issue

/-- The invariant of the model holds at reset (R45, R250). -/
def Obligations.InvariantHoldsAtReset : Prop := State.reset.Inv

/-- Every step keeps the invariant, from every state that meets it: the walks stay inside their buffers, the Adler sums in range,
the output buffer within `BUF_CAP`, every response legal and within `BUF_CAP` (R32-R34, R36, R37, R39, R40, R63, R64, R78, R102). -/
def Obligations.StepKeepsTheInvariant : Prop :=
  ∀ s t : State, s.Inv → step s = .next t → t.Inv

/-- R61, R63, R64: in a state that meets the invariant no step raises the fault `readBeyondBuffer`, which is how the model stops a
step form that would read a buffer at or past its length (the model's choice: log 18). -/
def Obligations.InvariantStatesNeverFault : Prop :=
  ∀ (s : State) (r : Fault), s.Inv → step s ≠ .fault r

/-- R31, R44, R251: no value a datapath register or a buffer holds before a command starts reaches the host: two `Idle` states
that differ only there run alike, for any number of steps and at any grain. -/
def Obligations.RegistersNeverReachAResponse : Prop :=
  ∀ (s t : State) (k : Nat), s.sameVisible t → s.phase = .idle →
    sameOutcome (Sys2Proof.core.run k s) (Sys2Proof.core.run k t)

/-- R44, R121, R124, R140: the step forms of the checksums and of the filter end in the state their commands give as one
transition (registers by log 6, the filter's steps by log 17), or are refused as their commands are (log 26). -/
def Obligations.ChecksumAndFilterStepFormsAgree : Prop :=
  ∀ (s : State) (sub : Submission) (rest : List Submission) (i : Instr), s.startsByStepForm sub rest i →
    ((∃ a b, i = .crc32 a b) ∨ (∃ data, i = .adler32 data) ∨ ∃ w h px, i = .filter w h px) →
    ∃ k, Sys2Proof.core.run k s = exec i (s.accept sub rest)

/-- R44, R161: the compressor's step form ends in the state COMPRESS gives as one transition (its registers by log 6), or is
refused as COMPRESS is (log 26), for every input. -/
def Obligations.CompressorStepFormAgrees : Prop :=
  ∀ (s : State) (sub : Submission) (rest : List Submission) (data : Bytes),
    s.startsByStepForm sub rest (.compress data) →
    ∃ k, Sys2Proof.core.run k s = exec (.compress data) (s.accept sub rest)

/-- R44, R190: the decompressor's step form, token by token or byte by byte, ends in the state DECOMPRESS gives as one
transition (its registers by log 6), or is refused as DECOMPRESS is (log 26), for every stream. -/
def Obligations.DecompressorStepFormAgrees : Prop :=
  ∀ (s : State) (sub : Submission) (rest : List Submission) (stream : Bytes),
    s.startsByStepForm sub rest (.decompress stream) →
    ∃ k, Sys2Proof.core.run k s = exec (.decompress stream) (s.accept sub rest)

/-- R229: a command that is refused gets no step in its step form either: at every grain the step that would take it up is refused
with the same reason, before any walk (log 26). -/
def Obligations.RefusedCommandsTakeNoStep : Prop :=
  ∀ (s : State) (sub : Submission) (rest : List Submission) (i : Instr) (r : Refusal),
    s.resetLine = false → s.phase = .idle → s.issue = sub :: rest → decodeCommand sub.desc = .ok i →
    exec i (s.accept sub rest) = .refused r → step s = .refused r
end

