-- ==== Sys2Proof/Laws/State.lean ====
section
/-! SUPPORT. One lemma per field per update of the state, so that no proof unfolds a record update. -/

namespace Sys2Proof.Machine

@[simp] theorem State.accept_cfg (s : State) (sub : Submission) (rest : List Submission) :
    (s.accept sub rest).cfg = s.cfg := rfl
@[simp] theorem State.accept_grain (s : State) (sub : Submission) (rest : List Submission) :
    (s.accept sub rest).grain = s.grain := rfl
@[simp] theorem State.accept_resetLine (s : State) (sub : Submission) (rest : List Submission) :
    (s.accept sub rest).resetLine = s.resetLine := rfl
@[simp] theorem State.accept_issue (s : State) (sub : Submission) (rest : List Submission) :
    (s.accept sub rest).issue = rest := rfl
@[simp] theorem State.accept_responses (s : State) (sub : Submission) (rest : List Submission) :
    (s.accept sub rest).responses = s.responses := rfl
@[simp] theorem State.accept_phase (s : State) (sub : Submission) (rest : List Submission) :
    (s.accept sub rest).phase = s.phase := rfl
@[simp] theorem State.accept_inFlight (s : State) (sub : Submission) (rest : List Submission) :
    (s.accept sub rest).inFlight = some sub := rfl
@[simp] theorem State.accept_mem (s : State) (sub : Submission) (rest : List Submission) :
    (s.accept sub rest).mem = ⟨byteOperands sub.desc.operands, []⟩ := rfl
@[simp] theorem State.accept_crc (s : State) (sub : Submission) (rest : List Submission) :
    (s.accept sub rest).crc = s.crc := rfl
@[simp] theorem State.accept_adler (s : State) (sub : Submission) (rest : List Submission) :
    (s.accept sub rest).adler = s.adler := rfl
@[simp] theorem State.accept_fil (s : State) (sub : Submission) (rest : List Submission) :
    (s.accept sub rest).fil = s.fil := rfl
@[simp] theorem State.accept_enc (s : State) (sub : Submission) (rest : List Submission) :
    (s.accept sub rest).enc = s.enc := rfl
@[simp] theorem State.accept_dec (s : State) (sub : Submission) (rest : List Submission) :
    (s.accept sub rest).dec = s.dec := rfl

@[simp] theorem State.complete_cfg (s : State) (r : Response) :
    (s.complete r).cfg = s.cfg := rfl
@[simp] theorem State.complete_grain (s : State) (r : Response) :
    (s.complete r).grain = s.grain := rfl
@[simp] theorem State.complete_resetLine (s : State) (r : Response) :
    (s.complete r).resetLine = s.resetLine := rfl
@[simp] theorem State.complete_issue (s : State) (r : Response) :
    (s.complete r).issue = s.issue := rfl
@[simp] theorem State.complete_responses (s : State) (r : Response) :
    (s.complete r).responses = s.responses ++ [r] := rfl
@[simp] theorem State.complete_phase (s : State) (r : Response) :
    (s.complete r).phase = .idle := rfl
@[simp] theorem State.complete_inFlight (s : State) (r : Response) :
    (s.complete r).inFlight = none := rfl
@[simp] theorem State.complete_mem (s : State) (r : Response) :
    (s.complete r).mem = s.mem := rfl
@[simp] theorem State.complete_crc (s : State) (r : Response) :
    (s.complete r).crc = s.crc := rfl
@[simp] theorem State.complete_adler (s : State) (r : Response) :
    (s.complete r).adler = s.adler := rfl
@[simp] theorem State.complete_fil (s : State) (r : Response) :
    (s.complete r).fil = s.fil := rfl
@[simp] theorem State.complete_enc (s : State) (r : Response) :
    (s.complete r).enc = s.enc := rfl
@[simp] theorem State.complete_dec (s : State) (r : Response) :
    (s.complete r).dec = s.dec := rfl

@[simp] theorem State.afterWalk_cfg (s : State) (w : Walk) :
    (s.afterWalk w).cfg = s.cfg := rfl
@[simp] theorem State.afterWalk_grain (s : State) (w : Walk) :
    (s.afterWalk w).grain = s.grain := rfl
@[simp] theorem State.afterWalk_resetLine (s : State) (w : Walk) :
    (s.afterWalk w).resetLine = s.resetLine := rfl
@[simp] theorem State.afterWalk_issue (s : State) (w : Walk) :
    (s.afterWalk w).issue = s.issue := rfl
@[simp] theorem State.afterWalk_responses (s : State) (w : Walk) :
    (s.afterWalk w).responses = s.responses := rfl
@[simp] theorem State.afterWalk_phase (s : State) (w : Walk) :
    (s.afterWalk w).phase = s.phase := rfl
@[simp] theorem State.afterWalk_inFlight (s : State) (w : Walk) :
    (s.afterWalk w).inFlight = s.inFlight := rfl
@[simp] theorem State.afterWalk_mem (s : State) (w : Walk) :
    (s.afterWalk w).mem = ⟨s.mem.inputs, w.out⟩ := rfl
@[simp] theorem State.afterWalk_crc (s : State) (w : Walk) :
    (s.afterWalk w).crc = s.crc := rfl
@[simp] theorem State.afterWalk_adler (s : State) (w : Walk) :
    (s.afterWalk w).adler = s.adler := rfl
@[simp] theorem State.afterWalk_fil (s : State) (w : Walk) :
    (s.afterWalk w).fil = s.fil := rfl
@[simp] theorem State.afterWalk_enc (s : State) (w : Walk) :
    (s.afterWalk w).enc = s.enc := rfl
@[simp] theorem State.afterWalk_dec (s : State) (w : Walk) :
    (s.afterWalk w).dec = w.regs := rfl

@[simp] theorem State.afterCompress_cfg (s : State) (data : Bytes) :
    (s.afterCompress data).cfg = s.cfg := rfl
@[simp] theorem State.afterCompress_grain (s : State) (data : Bytes) :
    (s.afterCompress data).grain = s.grain := rfl
@[simp] theorem State.afterCompress_resetLine (s : State) (data : Bytes) :
    (s.afterCompress data).resetLine = s.resetLine := rfl
@[simp] theorem State.afterCompress_issue (s : State) (data : Bytes) :
    (s.afterCompress data).issue = s.issue := rfl
@[simp] theorem State.afterCompress_responses (s : State) (data : Bytes) :
    (s.afterCompress data).responses = s.responses := rfl
@[simp] theorem State.afterCompress_phase (s : State) (data : Bytes) :
    (s.afterCompress data).phase = s.phase := rfl
@[simp] theorem State.afterCompress_inFlight (s : State) (data : Bytes) :
    (s.afterCompress data).inFlight = s.inFlight := rfl
@[simp] theorem State.afterCompress_mem (s : State) (data : Bytes) :
    (s.afterCompress data).mem = s.mem := rfl
@[simp] theorem State.afterCompress_crc (s : State) (data : Bytes) :
    (s.afterCompress data).crc = s.crc := rfl
@[simp] theorem State.afterCompress_adler (s : State) (data : Bytes) :
    (s.afterCompress data).adler = adlerAfter data := rfl
@[simp] theorem State.afterCompress_fil (s : State) (data : Bytes) :
    (s.afterCompress data).fil = s.fil := rfl
@[simp] theorem State.afterCompress_enc (s : State) (data : Bytes) :
    (s.afterCompress data).enc = s.enc.compressed data := rfl
@[simp] theorem State.afterCompress_dec (s : State) (data : Bytes) :
    (s.afterCompress data).dec = s.dec := rfl

@[simp] theorem State.afterChunk_cfg (s : State) (tag payload : Bytes) :
    (s.afterChunk tag payload).cfg = s.cfg := rfl
@[simp] theorem State.afterChunk_grain (s : State) (tag payload : Bytes) :
    (s.afterChunk tag payload).grain = s.grain := rfl
@[simp] theorem State.afterChunk_resetLine (s : State) (tag payload : Bytes) :
    (s.afterChunk tag payload).resetLine = s.resetLine := rfl
@[simp] theorem State.afterChunk_issue (s : State) (tag payload : Bytes) :
    (s.afterChunk tag payload).issue = s.issue := rfl
@[simp] theorem State.afterChunk_responses (s : State) (tag payload : Bytes) :
    (s.afterChunk tag payload).responses = s.responses := rfl
@[simp] theorem State.afterChunk_phase (s : State) (tag payload : Bytes) :
    (s.afterChunk tag payload).phase = s.phase := rfl
@[simp] theorem State.afterChunk_inFlight (s : State) (tag payload : Bytes) :
    (s.afterChunk tag payload).inFlight = s.inFlight := rfl
@[simp] theorem State.afterChunk_mem (s : State) (tag payload : Bytes) :
    (s.afterChunk tag payload).mem = s.mem := rfl
@[simp] theorem State.afterChunk_crc (s : State) (tag payload : Bytes) :
    (s.afterChunk tag payload).crc = crcAfter (tag ++ payload) := rfl
@[simp] theorem State.afterChunk_adler (s : State) (tag payload : Bytes) :
    (s.afterChunk tag payload).adler = s.adler := rfl
@[simp] theorem State.afterChunk_fil (s : State) (tag payload : Bytes) :
    (s.afterChunk tag payload).fil = s.fil := rfl
@[simp] theorem State.afterChunk_enc (s : State) (tag payload : Bytes) :
    (s.afterChunk tag payload).enc = s.enc := rfl
@[simp] theorem State.afterChunk_dec (s : State) (tag payload : Bytes) :
    (s.afterChunk tag payload).dec = s.dec := rfl

@[simp] theorem State.afterPipeline_cfg (s : State) (w h : U32) (px : Bytes) :
    (s.afterPipeline w h px).cfg = s.cfg := rfl
@[simp] theorem State.afterPipeline_grain (s : State) (w h : U32) (px : Bytes) :
    (s.afterPipeline w h px).grain = s.grain := rfl
@[simp] theorem State.afterPipeline_resetLine (s : State) (w h : U32) (px : Bytes) :
    (s.afterPipeline w h px).resetLine = s.resetLine := rfl
@[simp] theorem State.afterPipeline_issue (s : State) (w h : U32) (px : Bytes) :
    (s.afterPipeline w h px).issue = s.issue := rfl
@[simp] theorem State.afterPipeline_responses (s : State) (w h : U32) (px : Bytes) :
    (s.afterPipeline w h px).responses = s.responses := rfl
@[simp] theorem State.afterPipeline_phase (s : State) (w h : U32) (px : Bytes) :
    (s.afterPipeline w h px).phase = s.phase := rfl
@[simp] theorem State.afterPipeline_inFlight (s : State) (w h : U32) (px : Bytes) :
    (s.afterPipeline w h px).inFlight = s.inFlight := rfl
@[simp] theorem State.afterPipeline_mem (s : State) (w h : U32) (px : Bytes) :
    (s.afterPipeline w h px).mem = s.mem := rfl
@[simp] theorem State.afterPipeline_crc (s : State) (w h : U32) (px : Bytes) :
    (s.afterPipeline w h px).crc = crcAfter Config.tagIend := rfl
@[simp] theorem State.afterPipeline_adler (s : State) (w h : U32) (px : Bytes) :
    (s.afterPipeline w h px).adler = adlerAfter (filterImage w.toNat h.toNat px) := rfl
@[simp] theorem State.afterPipeline_fil (s : State) (w h : U32) (px : Bytes) :
    (s.afterPipeline w h px).fil = filterEnd w.toNat h.toNat := rfl
@[simp] theorem State.afterPipeline_enc (s : State) (w h : U32) (px : Bytes) :
    (s.afterPipeline w h px).enc = s.enc.compressed (filterImage w.toNat h.toNat px) := rfl
@[simp] theorem State.afterPipeline_dec (s : State) (w h : U32) (px : Bytes) :
    (s.afterPipeline w h px).dec = s.dec := rfl

@[simp] theorem State.delivered_cfg (s : State) (b : Bytes) :
    (s.delivered b).cfg = s.cfg := rfl
@[simp] theorem State.delivered_grain (s : State) (b : Bytes) :
    (s.delivered b).grain = s.grain := rfl
@[simp] theorem State.delivered_resetLine (s : State) (b : Bytes) :
    (s.delivered b).resetLine = s.resetLine := rfl
@[simp] theorem State.delivered_issue (s : State) (b : Bytes) :
    (s.delivered b).issue = s.issue := rfl
@[simp] theorem State.delivered_responses (s : State) (b : Bytes) :
    (s.delivered b).responses = s.responses ++ [⟨.ok, .bytes b⟩] := rfl
@[simp] theorem State.delivered_phase (s : State) (b : Bytes) :
    (s.delivered b).phase = .idle := rfl
@[simp] theorem State.delivered_inFlight (s : State) (b : Bytes) :
    (s.delivered b).inFlight = none := rfl
@[simp] theorem State.delivered_mem (s : State) (b : Bytes) :
    (s.delivered b).mem = ⟨s.mem.inputs, b⟩ := rfl
@[simp] theorem State.delivered_crc (s : State) (b : Bytes) :
    (s.delivered b).crc = s.crc := rfl
@[simp] theorem State.delivered_adler (s : State) (b : Bytes) :
    (s.delivered b).adler = s.adler := rfl
@[simp] theorem State.delivered_fil (s : State) (b : Bytes) :
    (s.delivered b).fil = s.fil := rfl
@[simp] theorem State.delivered_enc (s : State) (b : Bytes) :
    (s.delivered b).enc = s.enc := rfl
@[simp] theorem State.delivered_dec (s : State) (b : Bytes) :
    (s.delivered b).dec = s.dec := rfl

@[simp] theorem State.failed_cfg (s : State) (e : Status) :
    (s.failed e).cfg = s.cfg := rfl
@[simp] theorem State.failed_grain (s : State) (e : Status) :
    (s.failed e).grain = s.grain := rfl
@[simp] theorem State.failed_resetLine (s : State) (e : Status) :
    (s.failed e).resetLine = s.resetLine := rfl
@[simp] theorem State.failed_issue (s : State) (e : Status) :
    (s.failed e).issue = s.issue := rfl
@[simp] theorem State.failed_responses (s : State) (e : Status) :
    (s.failed e).responses = s.responses ++ [⟨e, .empty⟩] := rfl
@[simp] theorem State.failed_phase (s : State) (e : Status) :
    (s.failed e).phase = .idle := rfl
@[simp] theorem State.failed_inFlight (s : State) (e : Status) :
    (s.failed e).inFlight = none := rfl
@[simp] theorem State.failed_mem (s : State) (e : Status) :
    (s.failed e).mem = ⟨s.mem.inputs, []⟩ := rfl
@[simp] theorem State.failed_crc (s : State) (e : Status) :
    (s.failed e).crc = s.crc := rfl
@[simp] theorem State.failed_adler (s : State) (e : Status) :
    (s.failed e).adler = s.adler := rfl
@[simp] theorem State.failed_fil (s : State) (e : Status) :
    (s.failed e).fil = s.fil := rfl
@[simp] theorem State.failed_enc (s : State) (e : Status) :
    (s.failed e).enc = s.enc := rfl
@[simp] theorem State.failed_dec (s : State) (e : Status) :
    (s.failed e).dec = s.dec := rfl

@[simp] theorem State.doReset_cfg (s : State) :
    s.doReset.cfg = s.cfg := rfl
@[simp] theorem State.doReset_grain (s : State) :
    s.doReset.grain = s.grain := rfl
@[simp] theorem State.doReset_resetLine (s : State) :
    s.doReset.resetLine = State.reset.resetLine := rfl
@[simp] theorem State.doReset_issue (s : State) :
    s.doReset.issue = s.issue := rfl
@[simp] theorem State.doReset_responses (s : State) :
    s.doReset.responses = s.responses := rfl
@[simp] theorem State.doReset_phase (s : State) :
    s.doReset.phase = State.reset.phase := rfl
@[simp] theorem State.doReset_inFlight (s : State) :
    s.doReset.inFlight = State.reset.inFlight := rfl
@[simp] theorem State.doReset_mem (s : State) :
    s.doReset.mem = State.reset.mem := rfl
@[simp] theorem State.doReset_crc (s : State) :
    s.doReset.crc = State.reset.crc := rfl
@[simp] theorem State.doReset_adler (s : State) :
    s.doReset.adler = State.reset.adler := rfl
@[simp] theorem State.doReset_fil (s : State) :
    s.doReset.fil = State.reset.fil := rfl
@[simp] theorem State.doReset_enc (s : State) :
    s.doReset.enc = State.reset.enc := rfl
@[simp] theorem State.doReset_dec (s : State) :
    s.doReset.dec = State.reset.dec := rfl

@[simp] theorem Memory.write_inputs (m : Memory) (v : Bytes) : (m.write v).inputs = m.inputs := rfl
@[simp] theorem Memory.write_out (m : Memory) (v : Bytes) : (m.write v).out = m.out ++ v := rfl
@[simp] theorem Memory.write_input (m : Memory) (v : Bytes) (j : Nat) : (m.write v).input j = m.input j := rfl
@[simp] theorem Walk.put_p (w : Walk) (v : Bytes) (n : Nat) : (w.put v n).regs.p = w.regs.p + n := rfl
@[simp] theorem Walk.put_out (w : Walk) (v : Bytes) (n : Nat) : (w.put v n).out = w.out ++ v := rfl
@[simp] theorem Walk.fetchRef_out (w : Walk) (d : BitVec 16) (n : Byte) : (w.fetchRef d n).out = w.out := rfl
@[simp] theorem Walk.fetchRef_p (w : Walk) (d : BitVec 16) (n : Byte) : (w.fetchRef d n).regs.p = w.regs.p := rfl
@[simp] theorem Walk.fetchRef_dist (w : Walk) (d : BitVec 16) (n : Byte) : (w.fetchRef d n).regs.dist = d := rfl
@[simp] theorem Walk.fetchRef_n (w : Walk) (d : BitVec 16) (n : Byte) : (w.fetchRef d n).regs.n = n := rfl
@[simp] theorem Walk.runRef_p (w : Walk) : w.runRef.regs.p = w.regs.p + 4 := rfl
@[simp] theorem Walk.runRef_out (w : Walk) :
    w.runRef.out = w.out ++ copyBytes w.out w.regs.dist.toNat w.regs.n.toNat := rfl
@[simp] theorem State.walk_regs (s : State) : s.walk.regs = s.dec := rfl
@[simp] theorem State.walk_out (s : State) : s.walk.out = s.mem.out := rfl
@[simp] theorem EncRegs.start_i (e : EncRegs) : e.start.i = 0 := rfl
@[simp] theorem EncRegs.start_tok (e : EncRegs) : e.start.tok = [] := rfl
@[simp] theorem EncRegs.search_i (data : Bytes) (e : EncRegs) : (e.search data).i = e.i := rfl
@[simp] theorem EncRegs.search_tok (data : Bytes) (e : EncRegs) : (e.search data).tok = e.tok := rfl
@[simp] theorem EncRegs.emitRef_i (e : EncRegs) : e.emitRef.i = e.i + tokenLen e.bestLen := rfl
@[simp] theorem EncRegs.emitRef_tok (e : EncRegs) : e.emitRef.tok = e.tok ++ refBytes e.bestDist e.bestLen := rfl
@[simp] theorem EncRegs.emitLit_i (e : EncRegs) (b : Byte) : (e.emitLit b).i = e.i + 1 := rfl
@[simp] theorem EncRegs.emitLit_tok (e : EncRegs) (b : Byte) : (e.emitLit b).tok = e.tok ++ litBytes b := rfl
@[simp] theorem DecRegs.start_p (r : DecRegs) : r.start.p = 0 := rfl
@[simp] theorem DecRegs.start_dph (r : DecRegs) : r.start.dph = .run := rfl

end Sys2Proof.Machine
end

