-- ==== Sys2Proof/Laws/Ops.lean ====
section
/-! SUPPORT. One lemma per shared operation, saying once everything it can do: the provers cite these instead of unfolding. -/

namespace Sys2Proof.Machine

/-! ### Buffers -/

/-- Appending to the output keeps the capacity of the input buffers (R62, R78). -/
theorem Memory.wf_write (cap : Option Nat) (m : Memory) (v : Bytes) : (m.write v).wf cap = m.wf cap := rfl

/-- Replacing the output keeps the capacity of the input buffers. -/
theorem Memory.wf_setOut (cap : Option Nat) (m : Memory) (v : Bytes) :
    Memory.wf cap { m with out := v } = m.wf cap := rfl

/-- Reset leaves no buffers, which are within every capacity. -/
theorem Memory.wf_empty (cap : Option Nat) : Memory.empty.wf cap = true := rfl

/-- An accepted command's input buffers are within capacity exactly when its `Bytes` operands are. -/
theorem State.wf_accept (s : State) (sub : Submission) (rest : List Submission) :
    (s.accept sub rest).mem.wf s.cfg.bufCap
      = (byteOperands sub.desc.operands).all (fun b => fits s.cfg.bufCap b.length) := rfl

/-- `MemRead` is defined exactly below the buffer's length (R11). -/
theorem memRead_eq_none_iff (buf : Bytes) (i : Nat) : memRead buf i = none ↔ buf.length ≤ i := by
  simp [memRead]

/-- Below the length, `MemRead` is `byteAt`. -/
theorem memRead_eq_some (buf : Bytes) (i : Nat) (h : i < buf.length) : memRead buf i = some (byteAt buf i) := by
  simp [memRead, byteAt, h]

@[simp] theorem fits_none (n : Nat) : fits none n = true := rfl

@[simp] theorem fits_some (m n : Nat) : fits (some m) n = decide (n ≤ m) := rfl

/-! ### Delivery and errors -/

/-- A u32 result is always delivered (R102). -/
theorem deliverU32_eq (v : U32) (s : State) : deliverU32 v s = .next (s.complete ⟨.ok, .u32 v⟩) := rfl

/-- What a command that goes on can do (R78). -/
theorem holdOutput_cases (s : State) :
    (fits s.cfg.bufCap s.mem.out.length = true ∧ holdOutput s = .next s)
      ∨ (fits s.cfg.bufCap s.mem.out.length = false ∧ holdOutput s = .refused .overCapacity) := by
  cases h : fits s.cfg.bufCap s.mem.out.length <;> simp [holdOutput, h]

/-- If a command goes on, it is within capacity and its state is the one given. -/
theorem holdOutput_inv (s t : State) (h : holdOutput s = .next t) :
    fits s.cfg.bufCap s.mem.out.length = true ∧ t = s := by
  obtain ⟨hf, e⟩ | ⟨_, e⟩ := holdOutput_cases s <;> rw [e] at h <;> cases h
  exact ⟨hf, rfl⟩

/-- What fits still fits when it is shorter. -/
theorem fits_mono (cap : Option Nat) {m n : Nat} (h : m ≤ n) (hn : fits cap n = true) : fits cap m = true := by
  cases cap with
  | none => rfl
  | some c => simp only [fits_some, decide_eq_true_eq] at hn ⊢; omega

/-- The empty buffer fits every capacity. -/
@[simp] theorem fits_zero (cap : Option Nat) : fits cap 0 = true := by cases cap <;> simp

/-- A byte-sequence result is delivered when it fits. -/
theorem deliverBytes_next (b : Bytes) (s : State) (h : s.takes b) : deliverBytes b s = .next (s.delivered b) := by
  unfold deliverBytes
  rw [if_pos h.1, if_pos h.2]
  rfl

/-- What delivery of a byte-sequence result can do. -/
theorem deliverBytes_cases (b : Bytes) (s : State) :
    (s.takes b ∧ deliverBytes b s = .next (s.delivered b))
      ∨ (fits s.cfg.bufCap b.length = false ∧ deliverBytes b s = .refused .overCapacity)
      ∨ (fits s.cfg.bufCap b.length = true ∧ fits s.storage.room b.length = false
          ∧ deliverBytes b s = .refused .outputTooSmall) := by
  cases hc : fits s.cfg.bufCap b.length with
  | false => exact .inr (.inl ⟨rfl, by simp [deliverBytes, hc]⟩)
  | true =>
    cases hr : fits s.storage.room b.length with
    | false => exact .inr (.inr ⟨rfl, rfl, by simp [deliverBytes, hc, hr]⟩)
    | true => exact .inl ⟨⟨hc, hr⟩, deliverBytes_next b s ⟨hc, hr⟩⟩

/-- If a byte-sequence result is delivered, the state is the delivered one. -/
theorem deliverBytes_inv (b : Bytes) (s t : State) (h : deliverBytes b s = .next t) :
    s.takes b ∧ t = s.delivered b := by
  obtain ⟨hk, e⟩ | ⟨_, e⟩ | ⟨_, _, e⟩ := deliverBytes_cases b s <;> rw [e] at h <;> cases h
  exact ⟨hk, rfl⟩

/-- An error always completes the command (R226). -/
theorem raise_eq (e : Status) (s : State) : raise e s = .next (s.failed e) := rfl

/-! ### Taking a command up -/

/-- A command is taken up exactly when the block is ready for its buffers and its operands meet R103. -/
theorem whyRefused_eq_none_iff (i : Instr) (s : State) :
    whyRefused i s = none ↔ s.ready (buffersOf i) ∧ operandRefusal i = none := by
  have hall : ((buffersOf i).all (fun b => fits s.cfg.bufCap b.length) = true)
      ↔ ∀ b ∈ buffersOf i, fits s.cfg.bufCap b.length = true := List.all_eq_true
  unfold whyRefused State.ready
  rw [← hall]
  by_cases hp : s.phase = .idle
  · cases ho : s.storage.overlaps with
    | true => simp [hp]
    | false =>
      cases ha : (buffersOf i).all (fun b => fits s.cfg.bufCap b.length) <;> simp [hp]
  · simp [hp]

/-- While `Busy`, every command is refused (R32, R255 duty 5). -/
theorem whyRefused_busy (i : Instr) (s : State) (h : s.phase ≠ .idle) : whyRefused i s = some .busy := by
  simp [whyRefused, h]

/-- A command's operands meet the machine's check exactly when the instruction is well formed (R103). -/
theorem operandRefusal_eq_none_iff (i : Instr) (h : i.isToken = false) : operandRefusal i = none ↔ i.wf = true := by
  have image (w h' : U32) (px : Bytes) : imageRefusal w h' px = none ↔ wfImage w h' px = true := by
    unfold imageRefusal wfImage
    by_cases h0 : w.toNat = 0 ∨ h'.toNat = 0
    · simp only [h0, if_true, Bool.and_eq_true, decide_eq_true_eq]
      constructor
      · intro h; cases h
      · intro h; omega
    · simp only [h0, if_false, Bool.and_eq_true, decide_eq_true_eq]
      split
      · simp_all; omega
      · simp_all
  cases i with
  | filter width height px => exact image width height px
  | encodePng width height px => exact image width height px
  | makeIhdr width height => simp only [operandRefusal, Instr.wf]; split <;> simp_all <;> omega
  | writeChunk tag payload =>
    have hlim : Config.lenFieldMax = 2 ^ 32 - 1 := rfl
    rw [operandRefusal, Instr.wf, ← hlim]
    by_cases ht : tag.length = 4 <;> by_cases hp : payload.length ≤ Config.lenFieldMax <;> simp [ht, hp]
  | assemble ihdr idat =>
    have hlim : Config.lenFieldMax = 2 ^ 32 - 1 := rfl
    rw [operandRefusal, Instr.wf, ← hlim]
    by_cases hh : ihdr.length ≤ Config.lenFieldMax <;> by_cases hd : idat.length ≤ Config.lenFieldMax <;>
      simp [hh, hd]
  | crc32 | adler32 | compress | decompress => simp [operandRefusal, Instr.wf]
  | lit | litff | ref => simp [Instr.isToken] at h

/-- A command that answers a next state was ready and well formed (R32, R76, R78, R103). -/
theorem exec_next_accepted (i : Instr) (s t : State) (hi : i.isToken = false) (h : exec i s = .next t) :
    whyRefused i s = none := by
  cases hw : whyRefused i s with
  | none => rfl
  | some r =>
    cases i <;> simp_all [Instr.isToken, exec, execCrc32, execAdler32, execFilter, execCompress, execDecompress,
      execWriteChunk, execMakeIhdr, execAssemble, execEncodePng]

/-- What the start of a command can do when a step stands for a step of a step form: what the command does as one transition,
or, where that completes, the start of its walk (R32, R229). -/
theorem startCommand_cases (i : Instr) (s : State) :
    startCommand i s = exec i s
      ∨ ∃ t u, exec i s = .next t ∧ s.walkStart i = some u ∧ startCommand i s = .next u := by
  cases he : exec i s with
  | refused r => exact .inl (by simp [startCommand, he])
  | fault f => exact .inl (by simp [startCommand, he])
  | next t =>
    cases hw : s.walkStart i with
    | none => exact .inl (by simp [startCommand, he, hw])
    | some u => exact .inr ⟨t, u, rfl, rfl, by simp [startCommand, he, hw]⟩

/-- A walk starts with the block `Busy`, and touches nothing but the registers of its unit and the output buffer. -/
theorem State.walkStart_frame (s u : State) (i : Instr) (h : s.walkStart i = some u) :
    (∃ w, u.phase = .busy w) ∧ u.cfg = s.cfg ∧ u.grain = s.grain ∧ u.resetLine = s.resetLine ∧ u.issue = s.issue
      ∧ u.responses = s.responses ∧ u.inFlight = s.inFlight ∧ u.mem.inputs = s.mem.inputs := by
  cases i <;> simp only [State.walkStart] at h <;> (try split at h) <;> cases h <;> simp

/-! ### The trailer check and the token walk -/

/-- What the trailer check can do (R188). -/
theorem checkTrailer_cases (stream : Bytes) (s : State) :
    (adler32 s.mem.out = trailer stream
        ∧ checkTrailer stream s = deliverBytes s.mem.out { s with adler := adlerAfter s.mem.out })
      ∨ (adler32 s.mem.out ≠ trailer stream
        ∧ checkTrailer stream s = .next (State.failed { s with adler := adlerAfter s.mem.out } .checksumMismatch)) := by
  by_cases h : adler32 s.mem.out = trailer stream
  · exact .inl ⟨h, by simp [checkTrailer, h]⟩
  · exact .inr ⟨h, by simp [checkTrailer, h, raise_eq]⟩

/-- What DECOMPRESS can do once its operand is accepted, in the order of R228, its output held to `BUF_CAP` (R78). -/
theorem runDecompress_cases (stream : Bytes) (s : State) :
    (headerOk stream = false ∧ runDecompress stream s = .next (s.failed .malformedHeader))
      ∨ (headerOk stream = true ∧ ∃ w, walkRegion (tokenRegion stream) s.dec = (w, .ok)
          ∧ fits s.cfg.bufCap w.out.length = true
          ∧ runDecompress stream s = checkTrailer stream (s.afterWalk ⟨{ w.regs with dph := .check }, w.out⟩))
      ∨ (headerOk stream = true ∧ ∃ w e, e ≠ .ok ∧ walkRegion (tokenRegion stream) s.dec = (w, e)
          ∧ fits s.cfg.bufCap w.out.length = true
          ∧ runDecompress stream s = .next ((s.afterWalk w).failed e))
      ∨ (headerOk stream = true ∧ fits s.cfg.bufCap (walkRegion (tokenRegion stream) s.dec).1.out.length = false
          ∧ runDecompress stream s = .refused .overCapacity) := by
  cases hh : headerOk stream with
  | false => exact .inl ⟨rfl, by simp [runDecompress, hh, raise_eq]⟩
  | true =>
    rcases hw : walkRegion (tokenRegion stream) s.dec with ⟨w, e⟩
    cases hf : fits s.cfg.bufCap w.out.length with
    | false => exact .inr (.inr (.inr ⟨rfl, rfl, by simp [runDecompress, hh, hw, hf]⟩))
    | true =>
      by_cases he : e = .ok
      · subst he
        exact .inr (.inl ⟨rfl, w, rfl, hf, by simp [runDecompress, hh, hw, hf, endWalk]⟩)
      · refine .inr (.inr (.inl ⟨rfl, w, e, he, rfl, hf, ?_⟩))
        cases e <;> simp_all [runDecompress, raise_eq, endWalk]

/-! ### The Checksum Unit -/

@[simp] theorem crcAfter_nil : crcAfter [] = crcStart := rfl

theorem crcAfter_append (s t : Bytes) : crcAfter (s ++ t) = t.foldl CrcRegs.feed (crcAfter s) := by
  simp [crcAfter, List.foldl_append]

/-- The loop index of R121 counts the bytes consumed. -/
theorem crcAfter_j (s : Bytes) : (crcAfter s).j = s.length := by
  suffices h : ∀ (s : Bytes) (r : CrcRegs), (s.foldl CrcRegs.feed r).j = r.j + s.length by
    simpa [crcAfter, crcStart] using h s crcStart
  intro s
  induction s with
  | nil => intro r; rfl
  | cons x s ih => intro r; simp only [List.foldl_cons, List.length_cons, ih, CrcRegs.feed]; omega

@[simp] theorem adlerAfter_nil : adlerAfter [] = adlerStart := rfl

theorem adlerAfter_append (s t : Bytes) : adlerAfter (s ++ t) = t.foldl AdlerRegs.feed (adlerAfter s) := by
  simp [adlerAfter, List.foldl_append]

/-- The loop index of R124 counts the bytes consumed. -/
theorem adlerAfter_j (s : Bytes) : (adlerAfter s).j = s.length := by
  suffices h : ∀ (s : Bytes) (r : AdlerRegs), (s.foldl AdlerRegs.feed r).j = r.j + s.length by
    simpa [adlerAfter, adlerStart] using h s adlerStart
  intro s
  induction s with
  | nil => intro r; rfl
  | cons x s ih => intro r; simp only [List.foldl_cons, List.length_cons, ih, AdlerRegs.feed]; omega

/-- One Adler step brings both sums into range, whatever they were (R36). -/
theorem AdlerRegs.feed_range (r : AdlerRegs) (x : Byte) : (r.feed x).a < 65521 ∧ (r.feed x).b < 65521 :=
  ⟨Nat.mod_lt _ (by decide), Nat.mod_lt _ (by decide)⟩

/-! ### The match finder -/

/-- The loop of R152 never passes its limit and never goes back. -/
theorem matchLenFrom_range (data : Bytes) (i d fuel k : Nat) :
    k ≤ matchLenFrom data i d fuel k ∧ matchLenFrom data i d fuel k ≤ k + fuel := by
  induction fuel generalizing k with
  | zero => simp [matchLenFrom]
  | succ fuel ih =>
    simp only [matchLenFrom]
    split
    · have := ih (k + 1); omega
    · omega

theorem matchLen_le_limit (data : Bytes) (i d : Nat) : matchLen data i d ≤ matchLimit data i := by
  have := (matchLenFrom_range data i d (matchLimit data i) 0).2
  simpa [matchLen] using this

theorem matchLimit_le (data : Bytes) (i : Nat) : matchLimit data i ≤ data.length - i := Nat.min_le_right _ _

/-- What `keepBest` can do (R154). -/
theorem keepBest_cases (best : Nat × Nat) (k d : Nat) :
    (best.1 < k ∧ keepBest best k d = (k, d)) ∨ (k ≤ best.1 ∧ keepBest best k d = best) := by
  unfold keepBest
  split
  · exact .inl ⟨‹_›, rfl⟩
  · exact .inr ⟨by omega, rfl⟩

/-! ### The token encoder -/

/-- What one turn of the loop of R150 does to the token bytes and the position. -/
theorem EncRegs.visit_cases (data : Bytes) (e : EncRegs) :
    (emitsRef (findMatch data e.i).1 (findMatch data e.i).2 = true
        ∧ (e.visit data).tok = e.tok ++ refBytes (findMatch data e.i).2 (findMatch data e.i).1
        ∧ (e.visit data).i = e.i + tokenLen (findMatch data e.i).1)
      ∨ (emitsRef (findMatch data e.i).1 (findMatch data e.i).2 = false
        ∧ (e.visit data).tok = e.tok ++ litBytes (byteAt data e.i)
        ∧ (e.visit data).i = e.i + 1) := by
  cases h : emitsRef (findMatch data e.i).1 (findMatch data e.i).2 with
  | true => exact .inl ⟨rfl, by simp [EncRegs.visit, EncRegs.search, h, EncRegs.emitRef]⟩
  | false => exact .inr ⟨rfl, by simp [EncRegs.visit, EncRegs.search, h, EncRegs.emitLit]⟩

/-- A literal is one byte, or two for the escape (R157). -/
theorem litBytes_length (b : Byte) : (litBytes b).length = if b = Config.esc then 2 else 1 := by
  unfold litBytes; split <;> rfl

/-- A back-reference is four bytes (R156). -/
@[simp] theorem refBytes_length (d n : Nat) : (refBytes d n).length = 4 := rfl

@[simp] theorem copyBytes_length (out : Bytes) (d n : Nat) : (copyBytes out d n).length = n := by
  simp [copyBytes]

@[simp] theorem be32_length (v : U32) : (be32 v).length = 4 := rfl

@[simp] theorem filterRow_length (W : Nat) (row : Bytes) : (filterRow W row).length = 1 + W := by
  simp [filterRow]; omega

/-- A filtered buffer has one filter byte and one row of bytes for each row. -/
theorem filterImage_length (width height : Nat) (pixels : Bytes) :
    (filterImage width height pixels).length = height * (1 + rowBytes width) := by
  simp [filterImage, List.length_flatMap]

/-- A turn of the encoder advances, and pays at least four token bytes for every 255 input bytes it covers. -/
theorem EncRegs.visit_pays (data : Bytes) (e : EncRegs) :
    e.i < (e.visit data).i
      ∧ 4 * (e.visit data).i + 255 * e.tok.length ≤ 4 * e.i + 255 * (e.visit data).tok.length := by
  obtain ⟨he, ht, hi⟩ | ⟨_, ht, hi⟩ := EncRegs.visit_cases data e
  · have hle : tokenLen (findMatch data e.i).1 ≤ 255 := Nat.min_le_right _ _
    have hge : 4 ≤ (findMatch data e.i).1 := by
      simp only [emitsRef, Bool.and_eq_true, decide_eq_true_eq] at he; exact he.1
    have hpos : 1 ≤ tokenLen (findMatch data e.i).1 := by simp only [tokenLen, Config.maxTokenLen]; omega
    rw [ht, hi, List.length_append, refBytes_length]
    omega
  · have hl : 1 ≤ (litBytes (byteAt data e.i)).length := by rw [litBytes_length]; split <;> omega
    rw [ht, hi, List.length_append]
    omega

/-- The loop of R150 reaches the end of the data, paying at least four token bytes for every 255 input bytes. -/
theorem EncRegs.loop_pays (data : Bytes) (fuel : Nat) (e : EncRegs) :
    4 * (EncRegs.loop data fuel e).i + 255 * e.tok.length ≤ 4 * e.i + 255 * (EncRegs.loop data fuel e).tok.length
      ∧ (data.length ≤ e.i + fuel → data.length ≤ (EncRegs.loop data fuel e).i) := by
  induction fuel generalizing e with
  | zero => simp [EncRegs.loop]
  | succ fuel ih =>
    have hv := e.visit_pays data
    have hr := ih (e.visit data)
    simp only [EncRegs.loop]
    split <;> omega

/-- A compressed stream pays at least four bytes for every 255 bytes of data. -/
theorem compress_pays (data : Bytes) : 4 * data.length ≤ 255 * (compress data).length := by
  have h := EncRegs.loop_pays data data.length State.reset.enc.start
  have hl : (compress data).length = 2 + (EncRegs.loop data data.length State.reset.enc.start).tok.length + 4 := by
    simp only [compress, tokensOf, EncRegs.compressed, streamHeader, List.length_append, be32_length]
    rfl
  simp only [EncRegs.start_i, EncRegs.start_tok, List.length_nil] at h
  omega

/-! ### Tokens -/

/-- When a token may be executed (R182, R190). -/
theorem State.atToken_iff (s : State) : s.atToken = true ↔ s.phase = .busy .decompressor ∧ s.dec.dph = .run := by
  simp [State.atToken]

/-- When a `REF` is valid (R186). -/
theorem refValid_iff (len : Nat) (dist : BitVec 16) (n : Byte) :
    refValid len dist n = true ↔ dist.toNat ≠ 0 ∧ dist.toNat ≤ len ∧ n.toNat ≠ 0 := by
  simp [refValid, and_assoc]

/-- What decoding a token can do (R85). -/
theorem decodeToken_cases (T : Bytes) (p : Nat) :
    (T.length ≤ p ∧ decodeToken T p = .error .endOfRegion)
      ∨ (p < T.length ∧ byteAt T p ≠ Config.esc ∧ decodeToken T p = .ok (.lit (byteAt T p), 1))
      ∨ (p + 1 = T.length ∧ byteAt T p = Config.esc ∧ decodeToken T p = .error .truncatedToken)
      ∨ (p + 1 < T.length ∧ byteAt T p = Config.esc ∧ byteAt T (p + 1) = Config.esc
          ∧ decodeToken T p = .ok (.litff, 2))
      ∨ (p + 1 < T.length ∧ T.length < p + 4 ∧ byteAt T p = Config.esc ∧ byteAt T (p + 1) ≠ Config.esc
          ∧ decodeToken T p = .error .truncatedToken)
      ∨ (p + 4 ≤ T.length ∧ byteAt T p = Config.esc ∧ byteAt T (p + 1) ≠ Config.esc
          ∧ decodeToken T p = .ok (.ref (rdLe16 T (p + 1)) (byteAt T (p + 3)), 4)) := by
  unfold decodeToken
  by_cases h0 : T.length ≤ p
  · exact .inl ⟨h0, by simp [h0]⟩
  by_cases h1 : byteAt T p = Config.esc
  · by_cases h2 : T.length ≤ p + 1
    · exact .inr (.inr (.inl ⟨by omega, h1, by simp [h0, h1, h2]⟩))
    by_cases h3 : byteAt T (p + 1) = Config.esc
    · exact .inr (.inr (.inr (.inl ⟨by omega, h1, h3, by simp [h0, h1, h2, h3]⟩)))
    by_cases h4 : T.length - p < 4
    · exact .inr (.inr (.inr (.inr (.inl ⟨by omega, by omega, h1, h3, by simp [h0, h1, h2, h3, h4]⟩))))
    · exact .inr (.inr (.inr (.inr (.inr ⟨by omega, h1, h3, by simp [h0, h1, h2, h3, h4]⟩))))
  · exact .inr (.inl ⟨by omega, h1, by simp [h0, h1]⟩)

end Sys2Proof.Machine
end

