-- ==== Sys2Proof/Laws/PerInstr.lean ====
section
/-! SUPPORT. Statements made for every instruction, one lemma per constructor. `EncodingShape`: the encoding of a token is 1, 2
or 4 bytes (R80) and that of a command is a descriptor with an assigned opcode (R101). -/

namespace Sys2Proof.Laws.EncodingShape

/-- The shape of an instruction's encoding. -/
def Statement (i : Instr) : Prop :=
  match encode i with
  | .token bytes => i.isToken = true ∧ (bytes.length = 1 ∨ bytes.length = 2 ∨ bytes.length = 4)
  | .command d => i.isToken = false ∧ 1 ≤ d.op.toNat ∧ d.op.toNat ≤ 9

theorem lit (b : Byte) : Statement (.lit b) := ⟨rfl, .inl rfl⟩
theorem litff : Statement .litff := ⟨rfl, .inr (.inl rfl)⟩
theorem ref (dist : BitVec 16) (n : Byte) : Statement (.ref dist n) := ⟨rfl, .inr (.inr rfl)⟩
theorem crc32 (a b : Bytes) : Statement (.crc32 a b) := ⟨rfl, by simp, by simp⟩
theorem adler32 (data : Bytes) : Statement (.adler32 data) := ⟨rfl, by simp, by simp⟩
theorem filter (width height : U32) (pixels : Bytes) : Statement (.filter width height pixels) :=
  ⟨rfl, by simp, by simp⟩
theorem compress (data : Bytes) : Statement (.compress data) := ⟨rfl, by simp, by simp⟩
theorem decompress (stream : Bytes) : Statement (.decompress stream) := ⟨rfl, by simp, by simp⟩
theorem writeChunk (tag payload : Bytes) : Statement (.writeChunk tag payload) := ⟨rfl, by simp, by simp⟩
theorem makeIhdr (width height : U32) : Statement (.makeIhdr width height) := ⟨rfl, by simp, by simp⟩
theorem assemble (ihdr idat : Bytes) : Statement (.assemble ihdr idat) := ⟨rfl, by simp, by simp⟩
theorem encodePng (width height : U32) (pixels : Bytes) : Statement (.encodePng width height pixels) :=
  ⟨rfl, by simp, by simp⟩

end Sys2Proof.Laws.EncodingShape
end

