-- ==== Sys2Proof/Machine/Assembler.lean ====
section
/-! DEFINITION. The assembly notation of 30_encoding.md as data: token lines and container directives (R97), pseudo-instructions
(R98) and command lines (R104), each with the bytes or the descriptor it stands for. Reading them from text is left out (log 22). -/

namespace Sys2Proof.Machine

/-- One line of token assembly (R97, R98). -/
inductive AsmLine where
  /-- `lit 0xBB`, `BB != FF`. -/
  | lit (b : Byte)
  /-- `litff`. -/
  | litff
  /-- `ref D, N`: `0 <= D <= 65535`, `lo8(D) != 0xFF`, `0 <= N <= 255`. -/
  | ref (dist n : Nat)
  /-- `.hdr`. -/
  | hdr
  /-- `.trailer 0xWWWWWWWW`. -/
  | trailer (w : U32)
  /-- `byte 0xBB`. -/
  | byte (b : Byte)
  /-- `bytes ...`. -/
  | bytes (bs : Bytes)
  /-- `.trailer auto`. -/
  | trailerAuto
  deriving DecidableEq, Repr

/-- The token bytes of a line that stands for tokens; `none` where R97 allows no such line or the line is a directive. -/
def AsmLine.tokens : AsmLine → Option Bytes
  | .lit b => if b = Config.esc then none else some [b]
  | .litff => some [Config.esc, Config.esc]
  | .ref dist n =>
    if dist ≤ Config.distFieldMax ∧ lo8 dist ≠ Config.esc ∧ n ≤ 255 then
      some [Config.esc, lo8 dist, hi8 dist, lo8 n]
    else none
  | .byte b => some (litBytes b)
  | .bytes bs => some (bs.flatMap litBytes)
  | .hdr => none
  | .trailer _ => none
  | .trailerAuto => none

/-- The bytes of a container directive after the token bytes `toks`; `.trailer auto` takes the Adler-32 of what they decode to
(R98), and is no line where they do not decode. -/
def AsmLine.directive (toks : Bytes) : AsmLine → Option Bytes
  | .hdr => some streamHeader
  | .trailer w => some (be32 w)
  | .trailerAuto =>
    match walkRegion toks State.reset.dec with
    | (w, .ok) => some (be32 (adler32 w.out))
    | _ => none
  | .lit _ => none
  | .litff => none
  | .ref _ _ => none
  | .byte _ => none
  | .bytes _ => none

/-- The bytes of an assembly program after the token bytes `toks`; `none` when a line is not one of R97 or R98. -/
def asmFrom (toks : Bytes) : List AsmLine → Option Bytes
  | [] => some []
  | line :: rest =>
    match line.tokens with
    | some bs => (asmFrom (toks ++ bs) rest).map (bs ++ ·)
    | none =>
      match line.directive toks with
      | some bs => (asmFrom toks rest).map (bs ++ ·)
      | none => none

/-- The bytes of an assembly program (R97, R98). -/
def asmProgram (lines : List AsmLine) : Option Bytes := asmFrom [] lines

/-- An operand of a command line (R104). -/
inductive AsmOperand where
  /-- `[78 9C ...]`. -/
  | hex (bs : Bytes)
  /-- `"..."`. -/
  | ascii (s : String)
  /-- `rep(x, k)`. -/
  | rep (x : AsmOperand) (k : Nat)
  /-- A decimal or `0x` number. -/
  | number (v : Nat)
  deriving DecidableEq, Repr

/-- The byte sequence an operand stands for, if it is one. -/
def AsmOperand.toBytes : AsmOperand → Option Bytes
  | .hex bs => some bs
  | .ascii s =>
    if s.toList.all (fun c => decide (c.toNat < 128)) then
      some (s.toList.map (fun c => BitVec.ofNat 8 c.toNat))
    else none
  | .rep x k => x.toBytes.map (fun bs => Sys2Proof.rep bs k)
  | .number _ => none

/-- The descriptor operand an operand stands for (R104). -/
def AsmOperand.toOperand : AsmOperand → Option Operand
  | .number v => if v ≤ Config.lenFieldMax then some (.u32 (BitVec.ofNat 32 v)) else none
  | .hex bs => some (.bytes bs)
  | .ascii s => (AsmOperand.ascii s).toBytes.map .bytes
  | .rep x k => (AsmOperand.rep x k).toBytes.map .bytes

/-- The opcode of a command mnemonic (R101). -/
def opcodeOf (mnemonic : String) : Option Byte :=
  match mnemonic with
  | "CRC32" => some 0x01
  | "ADLER32" => some 0x02
  | "FILTER" => some 0x03
  | "COMPRESS" => some 0x04
  | "DECOMPRESS" => some 0x05
  | "WRITE_CHUNK" => some 0x06
  | "MAKE_IHDR" => some 0x07
  | "ASSEMBLE" => some 0x08
  | "ENCODE_PNG" => some 0x09
  | _ => none

/-- The descriptor of a command line `MNEMONIC operand, operand, ...` (R104). -/
def asmCommand (mnemonic : String) (operands : List AsmOperand) : Option Descriptor :=
  match opcodeOf mnemonic, operands.mapM AsmOperand.toOperand with
  | some op, some ops => some ⟨op, ops⟩
  | _, _ => none

end Sys2Proof.Machine
end

