-- ==== Sys2Proof/Tests/Slice0.lean ====
section
/-! SUPPORT. Tests: well-formedness refuses ill-formed terms, words written out from the spec's encodings decode to what they
stand for, the worked examples of spec/95_test_vectors.md hold, and every statement's hypotheses are met by a concrete state. -/

namespace Sys2Proof.Tests

open Sys2Proof Sys2Proof.Machine

/-! ### Helper states -/

/-- DECOMPRESS walking the token region `T` at `p`, after `out` has been decoded. -/
def walking (T : Bytes) (p : Nat) (out : Bytes) : State :=
  { State.reset with
    phase := .busy .decompressor
    inFlight := some ⟨⟨5, [.bytes ([0x78, 0x9C] ++ T ++ [0, 0, 0, 0])]⟩, ⟨false, none⟩⟩
    mem := ⟨[[0x78, 0x9C] ++ T ++ [0, 0, 0, 0]], out⟩
    dec := { State.reset.dec with p := p } }

/-- The host about to present one command, at a grain. -/
def presenting (g : Grain) (d : Descriptor) : State :=
  { State.reset with grain := g, issue := [⟨d, ⟨false, none⟩⟩] }

/-- The last response in an outcome. -/
def response (o : Host.Outcome State Fault Refusal) : Option Response :=
  match o with
  | .next s => s.responses.getLast?
  | .fault _ => none
  | .refused _ => none

/-- The refusal in an outcome. -/
def refusal (o : Host.Outcome State Fault Refusal) : Option Refusal :=
  match o with
  | .next _ => none
  | .fault _ => none
  | .refused r => some r

/-- The output bytes and token pointer in an outcome. -/
def outAndP (o : Host.Outcome State Fault Refusal) : Option (Bytes × Nat) :=
  match o with
  | .next s => some (s.mem.out, s.dec.p)
  | .fault _ => none
  | .refused _ => none

/-! ### Well-formedness: one ill-formed term for each check -/

theorem test_wf_lit_escape : (Instr.lit 0xFF).wf = false := by decide
theorem test_wf_ref_escape : (Instr.ref 0x01FF 4).wf = false := by decide
theorem test_wf_ref_window : (Instr.ref 32768 255).wf = true := by decide
theorem test_wf_filter_length : (Instr.filter 2 1 [0, 0, 0, 0]).wf = false := by decide
theorem test_wf_filter_width : (Instr.filter 0 1 []).wf = false := by decide
theorem test_wf_filter_height : (Instr.filter 1 0 []).wf = false := by decide
theorem test_wf_png_length : (Instr.encodePng 1 1 [0, 0, 0]).wf = false := by decide
theorem test_wf_tag : (Instr.writeChunk [0x49, 0x45, 0x4E] []).wf = false := by decide
theorem test_wf_ihdr_width : (Instr.makeIhdr 0 5).wf = false := by decide
theorem test_wf_ihdr_height : (Instr.makeIhdr 5 0).wf = false := by decide

/-- A payload over `2^32 - 1` bytes is ill formed in both commands that frame one. -/
theorem test_wf_long_payload (big : Bytes) (h : 2 ^ 32 ≤ big.length) :
    (Instr.writeChunk [0, 0, 0, 0] big).wf = false ∧ (Instr.assemble big []).wf = false
      ∧ (Instr.assemble [] big).wf = false := by
  have hn : ¬ big.length ≤ 2 ^ 32 - 1 := by omega
  refine ⟨?_, ?_, ?_⟩ <;> simp only [Instr.wf, decide_eq_false hn, Bool.and_false, Bool.false_and]

/-! ### Decoding: words written out from R82-R84 and R101 -/

theorem test_decode_lit : decode (.token [0x78]) = .ok (.lit 0x78) := by decide
theorem test_decode_litff : decode (.token [0xFF, 0xFF]) = .ok .litff := by decide
/-- `ref 256,4` is `FF 00 01 04` (95, section 2.4). -/
theorem test_decode_ref : decode (.token [0xFF, 0x00, 0x01, 0x04]) = .ok (.ref 256 4) := by decide
/-- `FF FF FF FF` is two `LITFF`, never a `REF` (R184). -/
theorem test_decode_litff_first : decodeToken [0xFF, 0xFF, 0xFF, 0xFF] 0 = .ok (.litff, 2) := by decide
theorem test_decode_lone_escape : decodeToken [0x41, 0xFF] 1 = .error .truncatedToken := by decide
theorem test_decode_short_ref : decodeToken [0x41, 0xFF, 0x01, 0x00] 1 = .error .truncatedToken := by decide
theorem test_decode_crc32 : decode (.command ⟨0x01, [.bytes [1], .bytes []]⟩) = .ok (.crc32 [1] []) := by decide
theorem test_decode_adler32 : decode (.command ⟨0x02, [.bytes [7]]⟩) = .ok (.adler32 [7]) := by decide
theorem test_decode_filter :
    decode (.command ⟨0x03, [.u32 1, .u32 2, .bytes [7]]⟩) = .ok (.filter 1 2 [7]) := by decide
theorem test_decode_compress : decode (.command ⟨0x04, [.bytes [7]]⟩) = .ok (.compress [7]) := by decide
theorem test_decode_decompress : decode (.command ⟨0x05, [.bytes [7]]⟩) = .ok (.decompress [7]) := by decide
theorem test_decode_write_chunk :
    decode (.command ⟨0x06, [.bytes [1], .bytes [2]]⟩) = .ok (.writeChunk [1] [2]) := by decide
theorem test_decode_make_ihdr : decode (.command ⟨0x07, [.u32 3, .u32 4]⟩) = .ok (.makeIhdr 3 4) := by decide
theorem test_decode_assemble :
    decode (.command ⟨0x08, [.bytes [1], .bytes [2]]⟩) = .ok (.assemble [1] [2]) := by decide
theorem test_decode_encode_png :
    decode (.command ⟨0x09, [.u32 1, .u32 2, .bytes [7]]⟩) = .ok (.encodePng 1 2 [7]) := by decide
theorem test_decode_unassigned : decode (.command ⟨0x00, []⟩) = .error .unassignedOpcode := by decide
theorem test_decode_mismatch : decode (.command ⟨0x02, [.u32 1]⟩) = .error .operandMismatch := by decide

/-- The table numbers a token's byte 0 as its most significant byte. -/
theorem test_table_ref : decodeTableWord 32 0xFF030006 = some (.ref 3 6) := by decide +kernel
theorem test_table_litff : decodeTableWord 16 0xFFFF = some .litff := by decide +kernel
theorem test_table_lit : decodeTableWord 8 0x41 = some (.lit 0x41) := by decide +kernel
theorem test_table_png : decodeTableWord 8 0x09 = some (.encodePng 1 1 [0, 0, 0, 0]) := by decide +kernel

/-! ### The assembly notation (R97, R98, R104) -/

/-- Program P1 of 95_test_vectors.md. -/
theorem test_asm_p1 :
    asmProgram [.hdr, .lit 0x61, .lit 0x62, .lit 0x63, .ref 3 6, .litff, .trailer 0x15AF0472]
      = some [0x78, 0x9C, 0x61, 0x62, 0x63, 0xFF, 0x03, 0x00, 0x06, 0xFF, 0xFF, 0x15, 0xAF, 0x04, 0x72] := by
  decide +kernel
/-- `.trailer auto` computes the trailer that P1 writes out. -/
theorem test_asm_auto :
    asmProgram [.bytes [0x61, 0x62, 0x63], .ref 3 6, .byte 0xFF, .trailerAuto]
      = some [0x61, 0x62, 0x63, 0xFF, 0x03, 0x00, 0x06, 0xFF, 0xFF, 0x15, 0xAF, 0x04, 0x72] := by
  decide +kernel
theorem test_asm_ref_escape : asmProgram [.ref 255 4] = none := by decide +kernel
/-- `WRITE_CHUNK "IEND", []` (R104's example). -/
theorem test_asm_command :
    asmCommand "WRITE_CHUNK" [.ascii "IEND", .hex []]
      = some ⟨0x06, [.bytes [0x49, 0x45, 0x4E, 0x44], .bytes []]⟩ := by
  decide +kernel

/-! ### Tokens (43_decompressor.md) -/

theorem test_lit : outAndP (exec (.lit 0x41) (walking [0x41] 0 [])) = some ([0x41], 1) := by decide +kernel
theorem test_litff : outAndP (exec .litff (walking [0xFF, 0xFF] 0 [1])) = some ([1, 0xFF], 2) := by decide +kernel
/-- `out = [61 62 63]`, `FF 03 00 06` (R187). -/
theorem test_ref :
    outAndP (exec (.ref 3 6) (walking [0xFF, 3, 0, 6] 0 [0x61, 0x62, 0x63]))
      = some ([0x61, 0x62, 0x63, 0x61, 0x62, 0x63, 0x61, 0x62, 0x63], 4) := by decide +kernel
/-- Program P3: `ref 2,3` after one byte of output. -/
theorem test_ref_invalid :
    response (exec (.ref 2 3) (walking [0x41, 0xFF, 2, 0, 3] 1 [0x41])) = some ⟨.invalidBackReference, .empty⟩ := by
  decide +kernel
theorem test_lit_outside_walk : refusal (exec (.lit 0x41) State.reset) = some .notDecoding := by decide +kernel
/-- A token fetched by a step. -/
theorem test_step_litff : outAndP (step (walking [0x41, 0xFF, 0xFF] 1 [0x41])) = some ([0x41, 0xFF], 3) := by
  decide +kernel
theorem test_step_truncated :
    response (step (walking [0x41, 0xFF, 0x01] 1 [0x41])) = some ⟨.truncatedToken, .empty⟩ := by decide +kernel

/-! ### Commands: the vectors of 95_test_vectors.md -/

/-- Section 2.1, "1234", "56789". -/
theorem test_crc32 :
    response (exec (.crc32 [0x31, 0x32, 0x33, 0x34] [0x35, 0x36, 0x37, 0x38, 0x39]) State.reset)
      = some ⟨.ok, .u32 0xCBF43926⟩ := by decide +kernel
/-- Section 1.1, "message digest". -/
theorem test_adler32 :
    response (exec (.adler32 [0x6D, 0x65, 0x73, 0x73, 0x61, 0x67, 0x65, 0x20, 0x64, 0x69, 0x67, 0x65, 0x73, 0x74])
      State.reset) = some ⟨.ok, .u32 0x29750586⟩ := by decide +kernel
/-- Section 2.2, `rep([FF], 257)`: the sum `a` wraps. -/
theorem test_adler32_wraps : adler32 (rep [0xFF] 257) = 0x080F000F := by decide +kernel
/-- Section 2.3, the 2×2 image: row 2 restarts unfiltered. -/
theorem test_filter :
    response (exec (.filter 2 2
      [0x00, 0x00, 0x00, 0x00, 0xFF, 0xFF, 0xFF, 0xFF, 0xC8, 0x64, 0x32, 0x19, 0x64, 0xC8, 0x32, 0x00]) State.reset)
      = some ⟨.ok, .bytes [0x01, 0x00, 0x00, 0x00, 0x00, 0xFF, 0xFF, 0xFF, 0xFF,
          0x01, 0xC8, 0x64, 0x32, 0x19, 0x9C, 0x64, 0x00, 0xE7]⟩ := by decide +kernel
theorem test_filter_refused :
    refusal (exec (.filter 2 1 [0, 0, 0, 0]) State.reset) = some .malformedRawImage := by decide +kernel
/-- Section 2.4, "abcdXabcdYabcd": the tie keeps the smaller distance. -/
theorem test_compress_tie :
    response (exec (.compress [0x61, 0x62, 0x63, 0x64, 0x58, 0x61, 0x62, 0x63, 0x64, 0x59, 0x61, 0x62, 0x63, 0x64])
      State.reset)
      = some ⟨.ok, .bytes [0x78, 0x9C, 0x61, 0x62, 0x63, 0x64, 0x58, 0xFF, 0x05, 0x00, 0x04, 0x59,
          0xFF, 0x05, 0x00, 0x04, 0x27, 0xCD, 0x05, 0x50]⟩ := by decide +kernel
/-- Section 2.4, `rep([FF], 5)`: an escaped literal, then a run at distance 1. -/
theorem test_compress_escape :
    response (exec (.compress (rep [0xFF] 5)) State.reset)
      = some ⟨.ok, .bytes [0x78, 0x9C, 0xFF, 0xFF, 0xFF, 0x01, 0x00, 0x04, 0x0E, 0xF6, 0x04, 0xFC]⟩ := by
  decide +kernel
/-- Program P1. -/
theorem test_decompress :
    response (exec (.decompress
      [0x78, 0x9C, 0x61, 0x62, 0x63, 0xFF, 0x03, 0x00, 0x06, 0xFF, 0xFF, 0x15, 0xAF, 0x04, 0x72]) State.reset)
      = some ⟨.ok, .bytes [0x61, 0x62, 0x63, 0x61, 0x62, 0x63, 0x61, 0x62, 0x63, 0xFF]⟩ := by decide +kernel
/-- Section 2.5: the first failing token is reported, and the trailer is never checked. -/
theorem test_decompress_priority :
    decompress [0x78, 0x9C, 0x41, 0xFF, 0x02, 0x00, 0x03, 0xFF, 0, 0, 0, 0] = ⟨.invalidBackReference, .empty⟩ := by
  decide +kernel
/-- Section 2.6, the IHDR chunk of a 1×1 image. -/
theorem test_write_chunk :
    response (exec (.writeChunk [0x49, 0x48, 0x44, 0x52] [0, 0, 0, 1, 0, 0, 0, 1, 8, 6, 0, 0, 0]) State.reset)
      = some ⟨.ok, .bytes [0, 0, 0, 0x0D, 0x49, 0x48, 0x44, 0x52, 0, 0, 0, 1, 0, 0, 0, 1, 8, 6, 0, 0, 0,
          0x1F, 0x15, 0xC4, 0x89]⟩ := by decide +kernel
theorem test_write_chunk_refused :
    refusal (exec (.writeChunk [0x49, 0x45, 0x4E] []) State.reset) = some .badTag := by decide +kernel
theorem test_make_ihdr :
    response (exec (.makeIhdr 10 0x01020304) State.reset)
      = some ⟨.ok, .bytes [0, 0, 0, 10, 1, 2, 3, 4, 8, 6, 0, 0, 0]⟩ := by decide +kernel
/-- Section 2.6, `ASSEMBLE [], []`. -/
theorem test_assemble :
    response (exec (.assemble [] []) State.reset)
      = some ⟨.ok, .bytes [0x89, 0x50, 0x4E, 0x47, 0x0D, 0x0A, 0x1A, 0x0A,
          0, 0, 0, 0, 0x49, 0x48, 0x44, 0x52, 0xA8, 0xA1, 0xAE, 0x0A,
          0, 0, 0, 0, 0x49, 0x44, 0x41, 0x54, 0x35, 0xAF, 0x06, 0x1E,
          0, 0, 0, 0, 0x49, 0x45, 0x4E, 0x44, 0xAE, 0x42, 0x60, 0x82]⟩ := by decide +kernel
/-- Program P4. -/
theorem test_encode_png :
    response (exec (.encodePng 1 1 [0x0A, 0x14, 0x1E, 0x28]) State.reset)
      = some ⟨.ok, .bytes [0x89, 0x50, 0x4E, 0x47, 0x0D, 0x0A, 0x1A, 0x0A,
          0, 0, 0, 0x0D, 0x49, 0x48, 0x44, 0x52, 0, 0, 0, 1, 0, 0, 0, 1, 8, 6, 0, 0, 0, 0x1F, 0x15, 0xC4, 0x89,
          0, 0, 0, 0x0B, 0x49, 0x44, 0x41, 0x54, 0x78, 0x9C, 0x01, 0x0A, 0x14, 0x1E, 0x28, 0x00, 0xD2, 0x00, 0x66,
          0x04, 0xC4, 0x77, 0xD8,
          0, 0, 0, 0, 0x49, 0x45, 0x4E, 0x44, 0xAE, 0x42, 0x60, 0x82]⟩ := by decide +kernel
theorem test_capacity :
    refusal (exec (.compress [1, 2]) { State.reset with cfg := ⟨some 7⟩ }) = some .overCapacity := by decide +kernel
theorem test_overlap :
    refusal (step { State.reset with issue := [⟨⟨0x04, [.bytes []]⟩, ⟨true, none⟩⟩] })
      = some .overlappingBuffers := by decide +kernel
theorem test_room :
    refusal (step { State.reset with issue := [⟨⟨0x04, [.bytes []]⟩, ⟨false, some 5⟩⟩] })
      = some .outputTooSmall := by decide +kernel
/-- A stream whose output passes the capacity before its token fails is refused, not answered (R78). -/
theorem test_decompress_capacity :
    refusal (exec (.decompress [0x78, 0x9C, 0x41, 0xFF, 1, 0, 20, 0xFF, 0, 0, 0, 1])
      { State.reset with cfg := ⟨some 20⟩ })
      = some .overCapacity := by decide +kernel
/-- No walk starts for a result that does not fit (R229, R255 duty 4). -/
theorem test_step_form_refused :
    refusal (step { presenting .micro ⟨0x04, [.bytes []]⟩ with cfg := ⟨some 5⟩ }) = some .overCapacity
      ∧ refusal (step { State.reset with grain := .token, issue := [⟨⟨0x04, [.bytes []]⟩, ⟨false, some 5⟩⟩] })
        = some .outputTooSmall := by decide +kernel
/-- From reset, the step after `withFetchWord` runs the row's instruction. -/
theorem test_fetch_word :
    response (step (State.reset.withFetchWord 8 0x02)) = some ⟨.ok, .u32 1⟩ := by decide +kernel
theorem test_fetch_word_token :
    outAndP (step (State.reset.withFetchWord 16 0xFFFF)) = some ([0xFF], 2) := by decide +kernel
/-- A reset line asserted during a walk leaves no response (R252). -/
theorem test_reset_line :
    response (step { walking [0x41] 0 [] with resetLine := true }) = none := by decide +kernel

end Sys2Proof.Tests
end

