-- ==== Sys2Proof/Tests/Witnesses.lean ====
section
/-! SUPPORT. For every statement of Certificates/Slice0/Obligations.lean that has hypotheses, concrete operands and a concrete
state that meet all of them together, at a boundary of each clause. -/

namespace Sys2Proof.Tests

open Sys2Proof Sys2Proof.Machine

/-- DECOMPRESS at the start of the token region `T`, after `out`, in a block of a given capacity. -/
def capped (cap : Nat) (T out : Bytes) : State := { walking T 0 out with cfg := ⟨some cap⟩ }

theorem witness_DecodeOfEncodeIsTheInstruction :
    (Instr.ref 0xFFFE 0).wf = true ∧ (Instr.lit 0xFE).wf = true ∧ (Instr.filter 1 1 [0, 0, 0, 0]).wf = true := by
  decide

theorem witness_DecodedTokenReencodes :
    decodeToken [0xFF, 0x00, 0x80, 0xFF] 0 = .ok (.ref 32768 255, 4) := by decide

theorem witness_CommandDecodesExactlyItsEncoding :
    encode (.makeIhdr 1 1) = .command ⟨0x07, [.u32 1, .u32 1]⟩ := by decide

theorem witness_StepRunsThePresentedCommand :
    (presenting .command ⟨0x02, [.bytes [1]]⟩).resetLine = false
      ∧ (presenting .command ⟨0x02, [.bytes [1]]⟩).phase = .idle
      ∧ (presenting .command ⟨0x02, [.bytes [1]]⟩).grain = .command
      ∧ (presenting .command ⟨0x02, [.bytes [1]]⟩).issue = [⟨⟨0x02, [.bytes [1]]⟩, ⟨false, none⟩⟩]
      ∧ decodeCommand ⟨0x02, [.bytes [1]]⟩ = .ok (.adler32 [1]) := by decide

theorem witness_StepRunsTheTokenAtThePointer :
    (walking [0xFF, 0xFF] 0 []).resetLine = false ∧ (walking [0xFF, 0xFF] 0 []).phase = .busy .decompressor
      ∧ (walking [0xFF, 0xFF] 0 []).dec.dph = .run ∧ (walking [0xFF, 0xFF] 0 []).grain ≠ .micro
      ∧ decodeToken (walking [0xFF, 0xFF] 0 []).region (walking [0xFF, 0xFF] 0 []).dec.p = .ok (.litff, 2) := by
  decide

theorem witness_UnassignedOpcodeIsRefused :
    (presenting .command ⟨0x00, []⟩).resetLine = false ∧ (presenting .command ⟨0x00, []⟩).phase = .idle
      ∧ (presenting .command ⟨0x00, []⟩).issue = [⟨⟨0x00, []⟩, ⟨false, none⟩⟩]
      ∧ (⟨0x00, []⟩ : Descriptor).op.toNat = 0 ∧ 10 ≤ (⟨0x0A, []⟩ : Descriptor).op.toNat := by decide

/-- The escape as the last byte, the escape with one and with three bytes in all, and a token that is whole. -/
theorem witness_TruncatedTokenExactlyWhenBytesAreMissing :
    (walking [0xFF] 0 []).resetLine = false ∧ (walking [0xFF] 0 []).phase = .busy .decompressor
      ∧ (walking [0xFF] 0 []).dec.dph = .run
      ∧ (walking [0xFF] 0 []).dec.p < (walking [0xFF] 0 []).region.length
      ∧ step (walking [0xFF] 0 []) = .next ((walking [0xFF] 0 []).failed .truncatedToken)
      ∧ step (walking [0xFF, 1, 0] 0 []) = .next ((walking [0xFF, 1, 0] 0 []).failed .truncatedToken)
      ∧ outAndP (step (walking [0xFF, 1, 0, 1] 0 [7])) = some ([7, 7], 4) := by
  refine ⟨by decide, by decide, by decide, by decide, rfl, rfl, by decide +kernel⟩

/-- A command while `Busy`; a token while `Idle`, in a copy, and at the checksum. -/
theorem witness_WrongPhaseIsRefused :
    (Instr.crc32 [] []).isToken = false ∧ (walking [0x41] 0 []).phase ≠ .idle
      ∧ Instr.litff.isToken = true ∧ State.reset.phase ≠ .busy .decompressor
      ∧ (State.dec { walking [0x41] 0 [] with dec := ⟨0, 0, 0, 0, 0, .copy⟩ }).dph ≠ .run
      ∧ (State.dec { walking [0x41] 0 [] with dec := ⟨0, 0, 0, 0, 0, .check⟩ }).dph ≠ .run := by decide

/-- The byte that fills the output buffer to its capacity. -/
theorem witness_LitAppendsItsByte :
    (capped 2 [0x41] [7]).phase = .busy .decompressor ∧ (capped 2 [0x41] [7]).dec.dph = .run
      ∧ fits (capped 2 [0x41] [7]).cfg.bufCap ((capped 2 [0x41] [7]).mem.out.length + 1) = true := by decide

theorem witness_LitffAppendsTheEscapeByte :
    (capped 1 [0xFF, 0xFF] []).phase = .busy .decompressor ∧ (capped 1 [0xFF, 0xFF] []).dec.dph = .run
      ∧ fits (capped 1 [0xFF, 0xFF] []).cfg.bufCap ((capped 1 [0xFF, 0xFF] []).mem.out.length + 1) = true := by
  decide

theorem witness_RefCopiesTheLatchedWindow :
    (walking [0xFF, 1, 0, 1] 0 [7]).phase = .busy .decompressor ∧ (walking [0xFF, 1, 0, 1] 0 [7]).dec.dph = .run
      ∧ 1 ≤ (1 : BitVec 16).toNat ∧ (1 : BitVec 16).toNat ≤ (walking [0xFF, 1, 0, 1] 0 [7]).mem.out.length
      ∧ 1 ≤ (1 : Byte).toNat
      ∧ fits (walking [0xFF, 1, 0, 1] 0 [7]).cfg.bufCap
          ((walking [0xFF, 1, 0, 1] 0 [7]).mem.out.length + (1 : Byte).toNat) = true := by decide

theorem witness_RefIsAByteByByteCopy :
    ∃ t, exec (.ref 2 255) (walking [0xFF, 2, 0, 255] 0 [7, 8]) = .next t
      ∧ 1 ≤ (2 : BitVec 16).toNat ∧ (2 : BitVec 16).toNat ≤ (walking [0xFF, 2, 0, 255] 0 [7, 8]).mem.out.length
      ∧ 1 ≤ (255 : Byte).toNat := ⟨_, rfl, by decide, by decide, by decide⟩

/-- Distance zero, distance one more than the output, length zero. -/
theorem witness_InvalidRefEndsTheCommand :
    (walking [0x41] 0 [7]).phase = .busy .decompressor ∧ (walking [0x41] 0 [7]).dec.dph = .run
      ∧ (0 : BitVec 16).toNat = 0 ∧ (walking [0x41] 0 [7]).mem.out.length < (2 : BitVec 16).toNat
      ∧ (0 : Byte).toNat = 0 := by decide

theorem witness_Crc32Completes : State.reset.ready [[1], []] := ⟨rfl, rfl, by decide⟩

theorem witness_CrcSeesEveryByte : (0x00 : Byte) ≠ 0x80 := by decide

theorem witness_Adler32Completes : State.reset.ready [[]] := ⟨rfl, rfl, by decide⟩

theorem witness_FilterCompletes :
    State.reset.ready [[1, 2, 3, 4]] ∧ 1 ≤ (1 : U32).toNat
      ∧ ([1, 2, 3, 4] : Bytes).length = (1 : U32).toNat * (1 : U32).toNat * 4
      ∧ State.reset.takes (filterImage 1 1 [1, 2, 3, 4]) :=
  ⟨⟨rfl, rfl, by decide⟩, by decide, by decide, rfl, rfl⟩

theorem witness_FilterBytesAreSubDeltas :
    ([0x0A, 0x14, 0x1E, 0x28, 0x05, 0x19, 0x1E, 0xFF] : Bytes).length = 2 * 1 * 4
      ∧ (filterImage 2 1 [0x0A, 0x14, 0x1E, 0x28, 0x05, 0x19, 0x1E, 0xFF])[0 * (1 + 2 * 4) + 1 + 4]? = some 0xFB := by
  decide +kernel

theorem witness_FilterLosesNothing :
    ([1, 2, 3, 4] : Bytes).length = 1 * 1 * 4 ∧ filterImage 1 1 [1, 2, 3, 4] = filterImage 1 1 [1, 2, 3, 4] := by
  decide

/-- An image whose compressed stream is over `2^32 - 1` bytes long. -/
theorem long_image :
    (List.replicate (2 ^ 40) (0 : Byte)).length = (2 ^ 19 : U32).toNat * (2 ^ 19 : U32).toNat * 4
      ∧ 2 ^ 32 - 1 < (compress (filterImage (2 ^ 19 : U32).toNat (2 ^ 19 : U32).toNat
          (List.replicate (2 ^ 40) 0))).length := by
  have hw : (2 ^ 19 : U32).toNat = 2 ^ 19 := by decide
  rw [hw]
  refine ⟨by rw [List.length_replicate]; norm_num, ?_⟩
  have h := compress_pays (filterImage (2 ^ 19) (2 ^ 19) (List.replicate (2 ^ 40) 0))
  rw [filterImage_length, rowBytes, Config.bpp] at h
  omega

/-- Zero width, zero height, one byte missing, a tag of three bytes, a payload one byte too long, a compressed stream too long. -/
theorem witness_IllFormedCommandsAreRefused :
    (0 : U32).toNat = 0 ∧ ([0, 0, 0] : Bytes).length ≠ (1 : U32).toNat * (1 : U32).toNat * 4
      ∧ ([0x49, 0x45, 0x4E] : Bytes).length ≠ 4
      ∧ (Instr.makeIhdr 1 0).isToken = false ∧ (Instr.makeIhdr 1 0).wf = false
      ∧ refusal (exec (.filter 1 0 []) State.reset) = some .zeroDimension
      ∧ refusal (exec (.encodePng 1 1 [0, 0, 0]) State.reset) = some .malformedRawImage
      ∧ 2 ^ 32 - 1 < (List.replicate (2 ^ 32) (0 : Byte)).length
      ∧ 2 ^ 32 - 1 < (compress (filterImage (2 ^ 19 : U32).toNat (2 ^ 19 : U32).toNat
          (List.replicate (2 ^ 40) 0))).length :=
  ⟨by decide, by decide, by decide, by decide, by decide, by decide +kernel, by decide +kernel,
    by rw [List.length_replicate]; norm_num, long_image.2⟩

theorem witness_CompressCompletes :
    State.reset.ready [[0xFF]] ∧ State.reset.takes (compress [0xFF]) := ⟨⟨rfl, rfl, by decide⟩, rfl, rfl⟩

/-- Distance 1 at position 1 of a run; the match stops at the limit, and at a mismatch. -/
theorem witness_MatchLengthIsMaximal :
    1 ≤ 1 ∧ matchLen [7, 7, 7, 7, 7] 1 1 = 4 ∧ matchLen [7, 7, 7, 8, 7] 1 1 = 2 := by decide

/-- No candidate, and two candidates of one length. -/
theorem witness_FindMatchTakesLongestThenNearest :
    findMatch [7, 7, 7] 0 = (0, 0) ∧ findMatch [7, 8, 7, 8, 7, 8] 4 = (2, 2) := by decide

/-- A match of the whole limit that overlaps itself, and one that ends at a mismatch. -/
theorem witness_ModuloMatchIsAnOverlappingMatch :
    1 ≤ 2 ∧ 2 ≤ 2 ∧ 4 ≤ min 258 (([7, 8, 7, 8, 7, 8] : Bytes).length - 2)
      ∧ matchLen [7, 8, 7, 8, 7, 8] 2 2 = 4 ∧ matchLen [7, 8, 7, 8, 7, 9] 2 2 = 3 := by decide

/-- A back-reference of the least length, a match one byte too short, and the escape collision at distance 255. -/
theorem witness_EncoderTurnEmitsALegalToken :
    ({ State.reset.enc with i := 1 } : EncRegs).i < ([7, 7, 7, 7, 7] : Bytes).length
      ∧ findMatch [7, 7, 7, 7, 7] 1 = (4, 1) ∧ lo8 1 ≠ 0xFF
      ∧ findMatch [7, 7, 7, 7] 1 = (3, 1) ∧ lo8 255 = 0xFF ∧ lo8 32767 = 0xFF := by decide

theorem witness_CompressedLengthBounds : (compress []).length = 6 := by decide

theorem witness_CompressRoundTrips :
    (∃ u, exec (.compress [0xFF]) State.reset = .next u)
      ∧ State.reset.ready [compress [0xFF]] ∧ State.reset.takes [0xFF] :=
  ⟨⟨_, rfl⟩, ⟨rfl, rfl, fun _ _ => rfl⟩, rfl, rfl⟩

/-- An empty stream, an error in the walk, and an output that fills the capacity before a failing token. -/
theorem witness_DecompressCompletes :
    State.reset.ready [[0x78, 0x9C, 0, 0, 0, 1]]
      ∧ (∀ b, decompress [0x78, 0x9C, 0, 0, 0, 1] = ⟨.ok, .bytes b⟩ → fits State.reset.storage.room b.length = true)
      ∧ fits State.reset.cfg.bufCap (decodedOutput [0x78, 0x9C, 0, 0, 0, 1]).length = true
      ∧ (decompress [0x78, 0x9C, 0x41, 0xFF, 0, 0, 0, 1]).status = .truncatedToken
      ∧ fits (some 1) (decodedOutput [0x78, 0x9C, 0x41, 0xFF, 0, 0, 0, 1]).length = true
      ∧ (decompress [0x78, 0x9C, 0x41, 0, 0, 0, 1]).status = .checksumMismatch :=
  ⟨⟨rfl, rfl, by decide⟩, fun _ _ => rfl, by decide +kernel, by decide +kernel, by decide +kernel, by decide +kernel⟩

/-- Five bytes; six with a wrong first byte; six with a wrong second byte. -/
theorem witness_MalformedHeaderWins :
    State.reset.ready [[0x78, 0x9C, 0, 0, 0]] ∧ ([0x78, 0x9C, 0, 0, 0] : Bytes).length < 6
      ∧ byteAt [0x79, 0x9C, 0, 0, 0, 1] 0 ≠ 0x78 ∧ byteAt [0x78, 0x9D, 0, 0, 0, 1] 1 ≠ 0x9C :=
  ⟨⟨rfl, rfl, by decide⟩, by decide, by decide, by decide⟩

theorem witness_ErrorsLeaveNoOutput :
    (∃ t, exec (.decompress [0x78, 0x9C, 0x41, 0xFF, 0, 0, 0, 1]) State.reset = .next t)
      ∧ (decompress [0x78, 0x9C, 0x41, 0xFF, 0, 0, 0, 1]).status ≠ .ok := ⟨⟨_, rfl⟩, by decide +kernel⟩

/-- The last bit of the trailer of the empty stream flipped. -/
theorem witness_ChangedTrailerIsAChecksumMismatch :
    decompress [0x78, 0x9C, 0, 0, 0, 1] = ⟨.ok, .bytes []⟩
      ∧ ([0x78, 0x9C, 0, 0, 0, 0] : Bytes).length = ([0x78, 0x9C, 0, 0, 0, 1] : Bytes).length
      ∧ ([0x78, 0x9C, 0, 0, 0, 0] : Bytes).take 2 = ([0x78, 0x9C, 0, 0, 0, 1] : Bytes).take 2
      ∧ ([0x78, 0x9C, 0, 0, 0, 0] : Bytes) ≠ [0x78, 0x9C, 0, 0, 0, 1] := by decide +kernel

theorem witness_DecodedLengthBound :
    decompress [0x78, 0x9C, 0x41, 0, 0x42, 0, 0x42] = ⟨.ok, .bytes [0x41]⟩ := by decide +kernel

/-- The shortest reference, at the largest distance an output of two bytes allows. -/
theorem witness_NonCanonicalReferencesAreAccepted :
    1 ≤ 2 ∧ 2 ≤ 65535 ∧ 2 ≤ ([0x41, 0xFF] : Bytes).length ∧ lo8 2 ≠ 0xFF ∧ 1 ≤ 1 ∧ 1 ≤ 255 ∧ lo8 65534 ≠ 0xFF := by
  decide

theorem witness_WriteChunkCompletes :
    State.reset.ready [Config.tagIend, []] ∧ Config.tagIend.length = 4 ∧ ([] : Bytes).length ≤ 2 ^ 32 - 1
      ∧ State.reset.takes (writeChunk Config.tagIend []) := ⟨⟨rfl, rfl, fun _ _ => rfl⟩, rfl, by decide, rfl, rfl⟩

theorem witness_ChunksAreSelfDelimiting :
    Config.tagIend.length = 4 ∧ ([1] : Bytes).length ≤ 2 ^ 32 - 1
      ∧ writeChunk Config.tagIend [1] ++ [2] = writeChunk Config.tagIend [1] ++ [2] := ⟨rfl, by decide, rfl⟩

theorem witness_FramedLengths : Config.tagIend.length = 4 ∧ (makeIhdr 1 1).length = 13 := by decide

theorem witness_MakeIhdrCompletes :
    State.reset.ready [] ∧ 1 ≤ (1 : U32).toNat ∧ State.reset.takes (makeIhdr 1 0xFFFFFFFF) :=
  ⟨⟨rfl, rfl, by decide⟩, by decide, rfl, rfl⟩

theorem witness_AssembleCompletes :
    State.reset.ready [[], []] ∧ ([] : Bytes).length ≤ 2 ^ 32 - 1 ∧ State.reset.takes (assemble [] []) :=
  ⟨⟨rfl, rfl, by decide⟩, by decide, rfl, rfl⟩

theorem witness_EncodePngCompletes :
    State.reset.ready [[0, 0, 0, 0]] ∧ 1 ≤ (1 : U32).toNat
      ∧ ([0, 0, 0, 0] : Bytes).length = (1 : U32).toNat * (1 : U32).toNat * 4
      ∧ (compress (filterImage 1 1 [0, 0, 0, 0])).length ≤ 2 ^ 32 - 1
      ∧ fits State.reset.cfg.bufCap (filterImage 1 1 [0, 0, 0, 0]).length = true
      ∧ fits State.reset.cfg.bufCap (compress (filterImage 1 1 [0, 0, 0, 0])).length = true
      ∧ State.reset.takes (assemble (makeIhdr 1 1) (compress (filterImage 1 1 [0, 0, 0, 0]))) :=
  ⟨⟨rfl, rfl, by decide⟩, by decide, by decide, by decide +kernel, rfl, rfl, rfl, rfl⟩

/-- The next state of an outcome, if it has one. -/
def nextOf (o : Host.Outcome State Fault Refusal) : Option State :=
  match o with
  | .next s => some s
  | .fault _ => none
  | .refused _ => none

/-- The five commands of program P4, each from reset, all complete. -/
theorem witness_EncodePngIsTheFourCommands :
    ((nextOf (exec (.filter 1 1 [0x0A, 0x14, 0x1E, 0x28]) State.reset)).bind fun a =>
      (nextOf (exec (.compress a.mem.out) State.reset)).bind fun b =>
      (nextOf (exec (.makeIhdr 1 1) State.reset)).bind fun c =>
      (nextOf (exec (.assemble c.mem.out b.mem.out) State.reset)).bind fun d =>
      (nextOf (exec (.encodePng 1 1 [0x0A, 0x14, 0x1E, 0x28]) State.reset)).map fun e =>
        decide (e.mem.out = d.mem.out)) = some true := by decide +kernel

theorem witness_IdatPayloadDecodesToTheFilteredImage :
    (response (exec (.encodePng 1 1 [0x0A, 0x14, 0x1E, 0x28]) State.reset)).isSome = true := by decide +kernel

theorem witness_OnlyDecompressReturnsErrors :
    (Instr.makeIhdr 1 1).isToken = false ∧ (∀ stream, Instr.makeIhdr 1 1 ≠ .decompress stream)
      ∧ ∃ t, exec (.makeIhdr 1 1) State.reset = .next t := ⟨rfl, by simp, _, rfl⟩

/-- Overlapping storage, an operand one byte over the capacity, a byte and a copy one over it, a DECOMPRESS whose output passes it
before its last token fails, and a command that keeps within it. -/
theorem witness_OverlapAndOverCapacityAreRefused :
    (Instr.compress [1]).isToken = false
      ∧ State.storage { State.reset with inFlight := some ⟨⟨4, [.bytes [1]]⟩, ⟨true, none⟩⟩ } = ⟨true, none⟩
      ∧ encode (.compress [1]) = .command ⟨4, [.bytes [1]]⟩ ∧ Operand.bytes [1] ∈ [Operand.bytes [1]]
      ∧ fits (State.cfg { State.reset with cfg := ⟨some 0⟩ }).bufCap ([1] : Bytes).length = false
      ∧ (capped 1 [0x41] [7]).atToken = true
      ∧ fits (capped 1 [0x41] [7]).cfg.bufCap ((capped 1 [0x41] [7]).mem.out.length + 1) = false
      ∧ 1 ≤ (1 : BitVec 16).toNat ∧ (1 : BitVec 16).toNat ≤ (capped 2 [0x41] [7]).mem.out.length
      ∧ fits (capped 2 [0x41] [7]).cfg.bufCap ((capped 2 [0x41] [7]).mem.out.length + (2 : Byte).toNat) = false
      ∧ headerOk [0x78, 0x9C, 0x41, 0x42, 0xFF, 0, 0, 0, 1] = true
      ∧ fits (some 1) (decodedOutput [0x78, 0x9C, 0x41, 0x42, 0xFF, 0, 0, 0, 1]).length = false
      ∧ ((nextOf (exec (.lit 0x41) (capped 2 [0x41] [7]))).map fun t => t.mem.out) = some [7, 0x41] := by
  decide +kernel

theorem witness_InputsAreReadOnlyAndOutputAppended :
    (∃ t, exec (.crc32 [] []) State.reset = .next t)
      ∧ (walking [0x41] 0 []).resetLine = false ∧ (walking [0x41] 0 []).phase = .busy .decompressor
      ∧ ∃ t, step (walking [0x41] 0 []) = .next t ∧ t.phase ≠ .idle :=
  ⟨⟨_, rfl⟩, rfl, rfl, _, rfl, by decide⟩

theorem witness_ResetAbandonsTheCommand :
    State.resetLine { walking [0x41] 0 [] with resetLine := true } = true := rfl

/-- A walk in progress meets the invariant, and its step answers a next state. -/
theorem witness_StepKeepsTheInvariant :
    (walking [0x41, 0x42] 1 [0x41]).Inv ∧ ∃ t, step (walking [0x41, 0x42] 1 [0x41]) = .next t := by
  refine ⟨?_, _, rfl⟩
  exact
    { phase := by decide
      inputs := by decide
      output := by decide
      legal := by decide
      results := by simp [walking, State.reset]
      sums := by decide
      crcWalk := by decide
      adlerWalk := by decide
      filterWalk := fun h => absurd h (by decide)
      encWalk := fun h => absurd h (by decide)
      decWalk := fun _ => ⟨by decide, fun h => absurd h (by decide), fun h => absurd h (by decide)⟩ }

theorem witness_InvariantStatesNeverFault : (walking [0x41, 0x42] 1 [0x41]).Inv :=
  witness_StepKeepsTheInvariant.1

/-- Reset and the same state with other registers. -/
theorem witness_RegistersNeverReachAResponse :
    State.reset.sameVisible { State.reset with adler := ⟨5, 6, 7⟩, mem := ⟨[[1]], [2]⟩ }
      ∧ State.reset.phase = .idle := ⟨⟨rfl, rfl, rfl, rfl, rfl, rfl⟩, rfl⟩

theorem witness_ChecksumAndFilterStepFormsAgree :
    (presenting .micro ⟨0x03, [.u32 1, .u32 1, .bytes [1, 2, 3, 4]]⟩).startsByStepForm
      ⟨⟨0x03, [.u32 1, .u32 1, .bytes [1, 2, 3, 4]]⟩, ⟨false, none⟩⟩ [] (.filter 1 1 [1, 2, 3, 4]) :=
  ⟨rfl, rfl, rfl, by decide, by decide⟩

theorem witness_CompressorStepFormAgrees :
    (presenting .token ⟨0x04, [.bytes [1, 2]]⟩).startsByStepForm ⟨⟨0x04, [.bytes [1, 2]]⟩, ⟨false, none⟩⟩ []
      (.compress [1, 2]) := ⟨rfl, rfl, rfl, by decide, by decide⟩

theorem witness_DecompressorStepFormAgrees :
    (presenting .micro ⟨0x05, [.bytes [0x78, 0x9C, 0, 0, 0, 1]]⟩).startsByStepForm
      ⟨⟨0x05, [.bytes [0x78, 0x9C, 0, 0, 0, 1]]⟩, ⟨false, none⟩⟩ [] (.decompress [0x78, 0x9C, 0, 0, 0, 1]) :=
  ⟨rfl, rfl, rfl, by decide, by decide⟩

/-- A result over the capacity: no walk starts. -/
theorem witness_RefusedCommandsTakeNoStep :
    (presenting .micro ⟨0x04, [.bytes []]⟩).resetLine = false ∧ (presenting .micro ⟨0x04, [.bytes []]⟩).phase = .idle
      ∧ (presenting .micro ⟨0x04, [.bytes []]⟩).issue = [⟨⟨0x04, [.bytes []]⟩, ⟨false, none⟩⟩]
      ∧ decodeCommand ⟨0x04, [.bytes []]⟩ = .ok (.compress [])
      ∧ refusal (exec (.compress [])
          (State.accept { presenting .micro ⟨0x04, [.bytes []]⟩ with cfg := ⟨some 5⟩ }
            ⟨⟨0x04, [.bytes []]⟩, ⟨false, none⟩⟩ [])) = some .overCapacity := by decide +kernel

end Sys2Proof.Tests
end

section
/-! SUPPORT. The equations of a step and of taking a command up, one per case, and the statements that follow from them alone. -/

namespace Sys2Proof.Machine

/-! ### Which step is taken -/

theorem step_of_resetLine (s : State) (hr : s.resetLine = true) : step s = .next s.doReset := by
  simp [step, hr]

theorem step_of_idle (s : State) (hr : s.resetLine = false) (hp : s.phase = .idle) : step s = stepIdle s := by
  simp [step, hr, hp]

theorem step_of_busy (s : State) (w : Walker) (hr : s.resetLine = false) (hp : s.phase = .busy w) :
    step s = stepBusy w s := by
  simp [step, hr, hp]

theorem stepIdle_nil (s : State) (hi : s.issue = []) : stepIdle s = .next s := by
  simp [stepIdle, hi]

theorem stepIdle_undecodable (s : State) (sub : Submission) (rest : List Submission) (e : DecodeReject)
    (hi : s.issue = sub :: rest) (hd : decodeCommand sub.desc = .error e) : stepIdle s = .refused (refusalOf e) := by
  simp [stepIdle, hi, hd]

theorem stepIdle_presented (s : State) (sub : Submission) (rest : List Submission) (i : Instr)
    (hi : s.issue = sub :: rest) (hd : decodeCommand sub.desc = .ok i) :
    stepIdle s = runCommand i (s.accept sub rest) := by
  simp [stepIdle, hi, hd]

theorem runCommand_of_command (i : Instr) (s : State) (hg : s.grain = .command) : runCommand i s = exec i s := by
  simp [runCommand, hg]

theorem runCommand_of_stepForm (i : Instr) (s : State) (hg : s.grain ≠ .command) :
    runCommand i s = startCommand i s := by
  cases h : s.grain with
  | command => exact absurd h hg
  | token => simp [runCommand, h]
  | micro => simp [runCommand, h]

/-! ### Runs -/

theorem run_of_next (k : Nat) (s s' : State) (h : step s = .next s') :
    Sys2Proof.core.run (k + 1) s = Sys2Proof.core.run k s' := by
  have hc : Sys2Proof.core.step s = .next s' := h
  simp only [Host.Core.run, hc]

theorem run_of_fault (k : Nat) (s : State) (r : Fault) (h : step s = .fault r) :
    Sys2Proof.core.run (k + 1) s = .fault r := by
  have hc : Sys2Proof.core.step s = .fault r := h
  simp only [Host.Core.run, hc]

theorem run_of_refused (k : Nat) (s : State) (r : Refusal) (h : step s = .refused r) :
    Sys2Proof.core.run (k + 1) s = .refused r := by
  have hc : Sys2Proof.core.step s = .refused r := h
  simp only [Host.Core.run, hc]

/-! ### The token at the pointer -/

theorem stepRun_of_end (s : State) (h : s.region.length ≤ s.dec.p) :
    stepRun s = .next { s with dec := { s.dec with dph := .check } } := by
  simp [stepRun, h]

theorem stepRun_of_truncated (s : State) (e : DecodeReject) (h : s.dec.p < s.region.length)
    (hd : decodeToken s.region s.dec.p = .error e) : stepRun s = .next (s.failed .truncatedToken) := by
  simp [stepRun, Nat.not_le_of_lt h, hd, raise_eq]

theorem stepRun_of_token (s : State) (i : Instr) (size : Nat) (h : s.dec.p < s.region.length)
    (hd : decodeToken s.region s.dec.p = .ok (i, size)) : stepRun s = runToken i s := by
  simp [stepRun, Nat.not_le_of_lt h, hd]

/-- A literal is executed whole at every grain (R183, R190). -/
theorem runToken_lit (b : Byte) (s : State) (hat : s.atToken = true) :
    runToken (.lit b) s = holdOutput (s.afterWalk (s.walk.put [b] 1)) := by
  cases hg : s.grain <;> simp [runToken, hg, exec, tickToken, execLit, hat]

theorem runToken_litff (s : State) (hat : s.atToken = true) :
    runToken .litff s = holdOutput (s.afterWalk (s.walk.put [Config.esc] 2)) := by
  cases hg : s.grain <;> simp [runToken, hg, exec, tickToken, execLitff, hat]

/-- A `REF` that fails its validation ends the command at every grain (R186, R190). -/
theorem runToken_ref_of_invalid (dist : BitVec 16) (n : Byte) (s : State) (hat : s.atToken = true)
    (hv : refValid s.mem.out.length dist n = false) :
    runToken (.ref dist n) s = .next ((s.afterWalk (s.walk.fetchRef dist n)).failed .invalidBackReference) := by
  cases hg : s.grain <;> simp [runToken, hg, exec, tickToken, execRef, hat, hv, raise_eq]

theorem runToken_ref_whole (dist : BitVec 16) (n : Byte) (s : State) (hat : s.atToken = true)
    (hv : refValid s.mem.out.length dist n = true) (hg : s.grain ≠ .micro) :
    runToken (.ref dist n) s = holdOutput (s.afterWalk (s.walk.fetchRef dist n).runRef) := by
  cases h : s.grain with
  | micro => exact absurd h hg
  | command => simp [runToken, h, exec, execRef, hat, hv]
  | token => simp [runToken, h, exec, execRef, hat, hv]

/-- The decoder's registers as a valid `REF` enters `COPY(0)` (R190). -/
def State.latchRef (s : State) (dist : BitVec 16) (n : Byte) : DecRegs :=
  { s.dec with dist := dist, n := n, L := s.mem.out.length, k := 0, dph := .copy }

theorem runToken_ref_micro (dist : BitVec 16) (n : Byte) (s : State)
    (hv : refValid s.mem.out.length dist n = true) (hg : s.grain = .micro) :
    runToken (.ref dist n) s = .next { s with dec := s.latchRef dist n } := by
  simp [runToken, hg, tickToken, hv, State.latchRef]

/-! ### The token walk, one turn per token -/

section WalkLoop

variable (T : Bytes) (fuel : Nat) (w : Walk)

theorem Walk.loop_of_end (h : T.length ≤ w.regs.p) : Walk.loop T fuel w = (w, .ok) := by
  cases fuel with
  | zero => rfl
  | succ => simp [Walk.loop, h]

theorem Walk.loop_lit (h : w.regs.p < T.length) (hb : byteAt T w.regs.p ≠ Config.esc) :
    Walk.loop T (fuel + 1) w = Walk.loop T fuel (w.put [byteAt T w.regs.p] 1) := by
  simp [Walk.loop, Nat.not_le_of_lt h, hb]

theorem Walk.loop_litff (h : w.regs.p + 1 < T.length) (hb : byteAt T w.regs.p = Config.esc)
    (hb' : byteAt T (w.regs.p + 1) = Config.esc) :
    Walk.loop T (fuel + 1) w = Walk.loop T fuel (w.put [Config.esc] 2) := by
  have h0 : ¬ T.length ≤ w.regs.p := by omega
  simp [Walk.loop, h0, Nat.not_le_of_lt h, hb, hb']

theorem Walk.loop_ref_valid (h : w.regs.p + 4 ≤ T.length) (hb : byteAt T w.regs.p = Config.esc)
    (hb' : byteAt T (w.regs.p + 1) ≠ Config.esc)
    (hv : refValid w.out.length (rdLe16 T (w.regs.p + 1)) (byteAt T (w.regs.p + 3)) = true) :
    Walk.loop T (fuel + 1) w
      = Walk.loop T fuel (w.fetchRef (rdLe16 T (w.regs.p + 1)) (byteAt T (w.regs.p + 3))).runRef := by
  have h0 : ¬ T.length ≤ w.regs.p := by omega
  have h1 : ¬ T.length ≤ w.regs.p + 1 := by omega
  have h4 : ¬ T.length - w.regs.p < 4 := by omega
  simp [Walk.loop, h0, h1, h4, hb, hb', hv]

theorem Walk.loop_ref_invalid (h : w.regs.p + 4 ≤ T.length) (hb : byteAt T w.regs.p = Config.esc)
    (hb' : byteAt T (w.regs.p + 1) ≠ Config.esc)
    (hv : refValid w.out.length (rdLe16 T (w.regs.p + 1)) (byteAt T (w.regs.p + 3)) = false) :
    Walk.loop T (fuel + 1) w
      = (w.fetchRef (rdLe16 T (w.regs.p + 1)) (byteAt T (w.regs.p + 3)), .invalidBackReference) := by
  have h0 : ¬ T.length ≤ w.regs.p := by omega
  have h1 : ¬ T.length ≤ w.regs.p + 1 := by omega
  have h4 : ¬ T.length - w.regs.p < 4 := by omega
  simp [Walk.loop, h0, h1, h4, hb, hb', hv]

theorem Walk.loop_truncated (e : DecodeReject) (h : w.regs.p < T.length) (he : decodeToken T w.regs.p = .error e) :
    Walk.loop T (fuel + 1) w = (w, .truncatedToken) := by
  obtain ⟨h0, _⟩ | ⟨_, _, e'⟩ | ⟨h1, hb, _⟩ | ⟨_, _, _, e'⟩ | ⟨h1, h4, hb, hb', _⟩ | ⟨_, _, _, e'⟩ :=
    decodeToken_cases T w.regs.p
  · omega
  · rw [e'] at he; cases he
  · simp [Walk.loop, ← h1, hb]
  · rw [e'] at he; cases he
  · have h0 : ¬ T.length ≤ w.regs.p := by omega
    have h5 : T.length - w.regs.p < 4 := by omega
    simp [Walk.loop, h0, Nat.not_le_of_lt h1, h5, hb, hb']
  · rw [e'] at he; cases he

end WalkLoop

/-! ### What a decoded command is -/

/-- A descriptor that is read as a command is that command's encoding (R101). -/
theorem encode_of_decodeCommand (d : Descriptor) (i : Instr) (h : decodeCommand d = .ok i) :
    encode i = .command d := by
  obtain ⟨op, operands⟩ := d
  have hop (n : Nat) (hn : op.toNat = n) : BitVec.ofNat 8 n = op := by rw [← hn]; simp
  unfold decodeCommand at h
  dsimp only at h
  split at h
  case h_10 => cases h
  all_goals
    rename_i hn
    split at h
    · cases h
      simp only [encode, ← hop _ hn]
      rfl
    · cases h

/-- What is read from a descriptor is no token (R101). -/
theorem isToken_of_decodeCommand (d : Descriptor) (i : Instr) (h : decodeCommand d = .ok i) : i.isToken = false := by
  have he := encode_of_decodeCommand d i h
  cases i with
  | lit | litff | ref => cases he
  | _ => rfl

/-- The input buffers of an accepted command are its `Bytes` operands (R60). -/
theorem State.accept_inputs (s : State) (sub : Submission) (rest : List Submission) (i : Instr)
    (h : decodeCommand sub.desc = .ok i) : (s.accept sub rest).mem.inputs = buffersOf i := by
  simp [buffersOf, encode_of_decodeCommand _ _ h]

/-! ### Refusals by phase -/

/-- A command that is not taken up is refused (R229). -/
theorem exec_of_whyRefused (i : Instr) (s : State) (r : Refusal) (hi : i.isToken = false)
    (h : whyRefused i s = some r) : exec i s = .refused r := by
  cases i with
  | lit | litff | ref => cases hi
  | crc32 => simp only [exec, execCrc32, h]
  | adler32 => simp only [exec, execAdler32, h]
  | filter => simp only [exec, execFilter, h]
  | compress => simp only [exec, execCompress, h]
  | decompress => simp only [exec, execDecompress, h]
  | writeChunk => simp only [exec, execWriteChunk, h]
  | makeIhdr => simp only [exec, execMakeIhdr, h]
  | assemble => simp only [exec, execAssemble, h]
  | encodePng => simp only [exec, execEncodePng, h]

/-- A `FILTER` that completes was given a well-formed image: rows of `width*4` bytes, at least one (R90, R103). -/
theorem filter_image_of_exec {width height : U32} {px : Bytes} {s t : State}
    (h : exec (.filter width height px) s = .next t) :
    1 ≤ height.toNat ∧ px.length = height.toNat * rowBytes width.toNat := by
  have hop := ((whyRefused_eq_none_iff _ s).mp (exec_next_accepted _ s t rfl h)).2
  have hwf := (operandRefusal_eq_none_iff _ rfl).mp hop
  simp only [Instr.wf, wfImage, Bool.and_eq_true, decide_eq_true_eq] at hwf
  obtain ⟨⟨_, hh⟩, hlen⟩ := hwf
  refine ⟨hh, ?_⟩
  rw [hlen, rowBytes, Config.bpp]
  ring

/-- A token where none is walked is refused (R182, log 12). -/
theorem exec_of_not_atToken (i : Instr) (s : State) (hi : i.isToken = true) (h : s.atToken = false) :
    exec i s = .refused .notDecoding := by
  cases i with
  | lit => simp [exec, execLit, h]
  | litff => simp [exec, execLitff, h]
  | ref => simp [exec, execRef, h]
  | _ => cases hi

/-- Settles O5: `Idle` with a command presented, the step is the command's one transition. -/
theorem stepRunsThePresentedCommand : Obligations.StepRunsThePresentedCommand := by
  intro s sub rest i hr hp hg hi hd
  rw [step_of_idle s hr hp, stepIdle_presented s sub rest i hi hd, runCommand_of_command i (s.accept sub rest) hg]

/-- Settles O9: a command is refused by its phase first, a token by not being at one. -/
theorem wrongPhaseIsRefused : Obligations.WrongPhaseIsRefused := by
  intro s i
  refine ⟨fun hi hp => exec_of_whyRefused i s .busy hi (whyRefused_busy i s hp), fun hi hw => ?_⟩
  have hnot : s.atToken = false := by
    rw [Bool.eq_false_iff, Ne, State.atToken_iff]
    rintro ⟨hp, hd⟩
    exact hw.elim (fun h => h hp) (fun h => h hd)
  exact exec_of_not_atToken i s hi hnot

end Sys2Proof.Machine
end

section
/-! SUPPORT. The invariant in three parts: what each depends on, what delivering a response does to them, and that a command done as
one transition ends within the invariant (R32, R36, R78, R102). -/

namespace Sys2Proof.Machine

/-! ### The parts of the invariant -/

/-- The part of the invariant that does not speak of the phase: buffers and results within `BUF_CAP` (R78), responses legal
(R102), Adler sums in range (R36). An accepted command meets it before its phase is set. -/
structure State.Sound (s : State) : Prop where
  inputs : s.mem.wf s.cfg.bufCap = true
  output : fits s.cfg.bufCap s.mem.out.length = true
  legal : ∀ r ∈ s.responses, r.legal = true
  results : ∀ r ∈ s.responses, ∀ b, r.result = .bytes b → fits s.cfg.bufCap b.length = true
  sums : s.adler.a ≤ 65520 ∧ s.adler.b ≤ 65520

/-- The part of the invariant that speaks of the unit that walks. -/
abbrev State.WalkInv (s : State) : Walker → Prop
  | .crc => s.crc.j ≤ s.mem.inputs.flatten.length
  | .adler => s.adler.j ≤ (s.mem.input 0).length
  | .filter => FilInv (s.mem.input 0) s.fil
  | .compressor => EncInv (s.mem.input 0) s.enc
  | .decompressor => DecInv s.region s.mem.out s.dec

theorem State.Inv.sound {s : State} (h : s.Inv) : s.Sound := ⟨h.inputs, h.output, h.legal, h.results, h.sums⟩

/-- The invariant is its three parts. -/
theorem State.Sound.inv {s : State} (h : s.Sound) (hp : s.phase = .idle ↔ s.inFlight = none)
    (hw : ∀ w, s.phase = .busy w → s.WalkInv w) : s.Inv where
  phase := hp
  inputs := h.inputs
  output := h.output
  legal := h.legal
  results := h.results
  sums := h.sums
  crcWalk := hw .crc
  adlerWalk := hw .adler
  filterWalk := hw .filter
  encWalk := hw .compressor
  decWalk := hw .decompressor

/-- Soundness is kept by what leaves the host's side and the input buffers alone, with an output within `BUF_CAP` and Adler sums
in range. -/
theorem State.Sound.frame {s t : State} (h : s.Sound) (hc : t.cfg = s.cfg) (hr : t.responses = s.responses)
    (hm : t.mem.inputs = s.mem.inputs) (ho : fits s.cfg.bufCap t.mem.out.length = true)
    (ha : t.adler.a ≤ 65520 ∧ t.adler.b ≤ 65520) : t.Sound where
  inputs := by rw [hc, Memory.wf, hm]; exact h.inputs
  output := by rw [hc]; exact ho
  legal := by rw [hr]; exact h.legal
  results := by rw [hc, hr]; exact h.results
  sums := ha

/-- The command in flight goes on: nothing that the host or the phase sees has changed (R32, R61). -/
structure State.SameCommand (s t : State) : Prop where
  cfg : t.cfg = s.cfg
  responses : t.responses = s.responses
  phase : t.phase = s.phase
  inFlight : t.inFlight = s.inFlight
  inputs : t.mem.inputs = s.mem.inputs

/-- A walk that goes on keeps the invariant when its unit's part holds and its output is within `BUF_CAP`. -/
theorem State.Inv.goesOn {s t : State} {w : Walker} (h : s.Inv) (hw : s.phase = .busy w) (hk : s.SameCommand t)
    (ho : fits s.cfg.bufCap t.mem.out.length = true) (ha : t.adler.a ≤ 65520 ∧ t.adler.b ≤ 65520)
    (hwalk : t.WalkInv w) : t.Inv := by
  obtain ⟨hc, hr, hp, hf, hm⟩ := hk
  have hs : t.Sound := h.sound.frame hc hr hm ho ha
  refine hs.inv (by rw [hp, hf]; exact h.phase) fun w' hw' => ?_
  rw [hp, hw, Phase.busy.injEq] at hw'
  exact hw' ▸ hwalk

/-! ### Delivering a response -/

/-- Completion with a legal response within `BUF_CAP` ends in a state that meets the invariant (R32, R102). -/
theorem State.Sound.complete {s : State} (h : s.Sound) (r : Response) (hl : r.legal = true)
    (hb : ∀ b, r.result = .bytes b → fits s.cfg.bufCap b.length = true) : (s.complete r).Inv := by
  have all (P : Response → Prop) (hs : ∀ q ∈ s.responses, P q) (hr : P r) :
      ∀ q ∈ (s.complete r).responses, P q := by
    simp only [State.complete_responses, List.mem_append, List.mem_singleton]
    rintro q (hq | rfl)
    · exact hs q hq
    · exact hr
  have hs : (s.complete r).Sound :=
    ⟨h.inputs, h.output, all (·.legal = true) h.legal hl,
      all (fun q => ∀ b, q.result = .bytes b → fits s.cfg.bufCap b.length = true) h.results hb, h.sums⟩
  exact hs.inv (by simp) (by simp)

theorem inv_of_deliverU32 {s t : State} {v : U32} (ht : deliverU32 v s = .next t) (h : s.Sound) : t.Inv := by
  rw [deliverU32_eq] at ht
  cases ht
  exact h.complete _ rfl (by simp)

theorem inv_of_deliverBytes {s t : State} {b : Bytes} (ht : deliverBytes b s = .next t) (h : s.Sound) : t.Inv := by
  obtain ⟨⟨hfit, _⟩, rfl⟩ := deliverBytes_inv b s t ht
  have hs : State.Sound { s with mem := { s.mem with out := b } } := h.frame rfl rfl rfl hfit h.sums
  exact hs.complete ⟨.ok, .bytes b⟩ rfl (by simp only [Result.bytes.injEq]; rintro _ rfl; exact hfit)

/-- An error ends in a state that meets the invariant (R226). -/
theorem State.Sound.failed {s : State} (h : s.Sound) (e : Status) (he : e ≠ .ok) : (s.failed e).Inv := by
  have hs : State.Sound { s with mem := { s.mem with out := [] } } := h.frame rfl rfl rfl (fits_zero _) h.sums
  refine hs.complete ⟨e, .empty⟩ ?_ (by simp)
  cases e with
  | ok => exact absurd rfl he
  | _ => rfl

/-! ### The Adler sums -/

/-- The Adler sums of any data are in range (R36). -/
theorem adlerAfter_range (data : Bytes) : (adlerAfter data).a ≤ 65520 ∧ (adlerAfter data).b ≤ 65520 := by
  induction data using List.reverseRecOn with
  | nil => decide
  | append_singleton data x _ =>
    rw [adlerAfter_append]
    have := (adlerAfter data).feed_range x
    simp only [List.foldl_cons, List.foldl_nil]
    omega

/-! ### A command as one transition -/

theorem inv_of_checkTrailer {s t : State} {stream : Bytes} (ht : checkTrailer stream s = .next t) (h : s.Sound) :
    t.Inv := by
  have hs : State.Sound { s with adler := adlerAfter s.mem.out } := h.frame rfl rfl rfl h.output (adlerAfter_range _)
  obtain ⟨_, e⟩ | ⟨_, e⟩ := checkTrailer_cases stream s <;> rw [e] at ht
  · exact inv_of_deliverBytes ht hs
  · cases ht; exact hs.failed _ (by simp)

theorem State.Sound.afterWalk {s : State} (h : s.Sound) (w : Walk) (hfit : fits s.cfg.bufCap w.out.length = true) :
    (s.afterWalk w).Sound := h.frame rfl rfl rfl hfit h.sums

theorem inv_of_runDecompress {s t : State} {stream : Bytes} (ht : runDecompress stream s = .next t) (h : s.Sound) :
    t.Inv := by
  obtain ⟨_, e⟩ | ⟨_, w, _, hfit, e⟩ | ⟨_, w, st, hst, _, hfit, e⟩ | ⟨_, _, e⟩ := runDecompress_cases stream s <;>
    rw [e] at ht
  · cases ht; exact h.failed _ (by simp)
  · exact inv_of_checkTrailer ht (h.afterWalk _ hfit)
  · cases ht; exact (h.afterWalk w hfit).failed st hst
  · cases ht

/-- A command that completes as one transition leaves a state that meets the invariant (R32). -/
theorem inv_of_exec {i : Instr} {s t : State} (ht : exec i s = .next t) (hi : i.isToken = false) (h : s.Sound) :
    t.Inv := by
  have hw := exec_next_accepted i s t hi ht
  cases i with
  | lit | litff | ref => cases hi
  | crc32 a b =>
    simp only [exec, execCrc32, hw] at ht
    exact inv_of_deliverU32 ht (h.frame rfl rfl rfl h.output h.sums)
  | adler32 data =>
    simp only [exec, execAdler32, hw] at ht
    exact inv_of_deliverU32 ht (h.frame rfl rfl rfl h.output (adlerAfter_range data))
  | filter width height px =>
    simp only [exec, execFilter, hw] at ht
    exact inv_of_deliverBytes ht (h.frame rfl rfl rfl h.output h.sums)
  | compress data =>
    simp only [exec, execCompress, hw] at ht
    exact inv_of_deliverBytes ht (h.frame rfl rfl rfl h.output (adlerAfter_range data))
  | decompress stream =>
    simp only [exec, execDecompress, hw] at ht
    exact inv_of_runDecompress ht h
  | writeChunk tag payload =>
    simp only [exec, execWriteChunk, hw] at ht
    exact inv_of_deliverBytes ht (h.frame rfl rfl rfl h.output h.sums)
  | makeIhdr width height =>
    simp only [exec, execMakeIhdr, hw] at ht
    exact inv_of_deliverBytes ht h
  | assemble ihdr idat =>
    simp only [exec, execAssemble, hw] at ht
    exact inv_of_deliverBytes ht (h.frame rfl rfl rfl h.output h.sums)
  | encodePng width height px =>
    simp only [exec, execEncodePng, hw] at ht
    cases hpl : pipelineRefusal width height px s with
    | some r => simp only [hpl] at ht; cases ht
    | none =>
      simp only [hpl] at ht
      exact inv_of_deliverBytes ht (h.frame rfl rfl rfl h.output (adlerAfter_range _))

end Sys2Proof.Machine
end

section
/-! SUPPORT. Every step of a walk keeps the invariant, unit by unit, and with that every step of the machine. -/

namespace Sys2Proof.Machine

/-! ### The invariant of each unit's registers -/

/-- Where `MemRead` answers, the index is below the length (R11). -/
theorem memRead_some_lt {buf : Bytes} {i : Nat} {b : Byte} (h : memRead buf i = some b) : i < buf.length :=
  (List.getElem?_eq_some_iff.mp h).1

/-- In POS only the position matters (R34). -/
theorem encInv_of_pos {data : Bytes} {e : EncRegs} (hc : e.cph = .pos) (hi : e.i ≤ data.length) : EncInv data e :=
  { pos := hi, scan := by simp [hc], decide := by simp [hc], done := by simp [hc] }

/-- In RUN only the token pointer matters (R33). -/
theorem decInv_of_run {T out : Bytes} {r : DecRegs} (hd : r.dph = .run) (hp : r.p ≤ T.length) : DecInv T out r :=
  { pos := hp, copy := by simp [hd], check := by simp [hd] }

/-- The end of a candidate keeps the ranges of R37: the better match is within the limit, at a distance tried. -/
theorem EncInv.nextCandidate {data : Bytes} {e : EncRegs} (h : EncInv data e) (hc : e.cph = .scan) :
    EncInv data e.nextCandidate := by
  obtain ⟨hi, hd1, hdm, hk, hbl, hbd, hpos⟩ := h.scan hc
  have hbest : (keepBest (e.bestLen, e.bestDist) e.k e.d).1 ≤ matchLimit data e.i
      ∧ (keepBest (e.bestLen, e.bestDist) e.k e.d).2 ≤ maxDist e.i
      ∧ (1 ≤ (keepBest (e.bestLen, e.bestDist) e.k e.d).1 → 1 ≤ (keepBest (e.bestLen, e.bestDist) e.k e.d).2) := by
    obtain ⟨_, hb⟩ | ⟨_, hb⟩ := keepBest_cases (e.bestLen, e.bestDist) e.k e.d <;> rw [hb]
    · exact ⟨hk, hdm, fun _ => hd1⟩
    · exact ⟨hbl, hbd, hpos⟩
  unfold EncRegs.nextCandidate
  dsimp only
  split
  case isTrue hlt =>
    exact { pos := h.pos, decide := by simp [hc], done := by simp [hc]
            scan := fun _ => ⟨hi, by simp, hlt, Nat.zero_le _, hbest⟩ }
  case isFalse =>
    exact { pos := h.pos, scan := by simp, done := by simp, decide := fun _ => ⟨hi, hbest⟩ }

/-- A back-reference does not pass the end of the data (R63). -/
theorem EncInv.emitRef {data : Bytes} {e : EncRegs} (h : EncInv data e) (hc : e.cph = .decide) :
    EncInv data e.emitRef := by
  obtain ⟨hi, hbl, _, _⟩ := h.decide hc
  have hlen : tokenLen e.bestLen ≤ e.bestLen := Nat.min_le_left _ _
  have hlim := matchLimit_le data e.i
  exact encInv_of_pos rfl (by rw [EncRegs.emitRef_i]; omega)

/-! ### One step of each unit -/

theorem State.Inv.tickCrc {s t : State} (h : s.Inv) (hp : s.phase = .busy .crc) (ht : tickCrc s = .next t) : t.Inv := by
  unfold Machine.tickCrc at ht
  split at ht
  case h_1 x hx =>
    cases ht
    exact h.goesOn hp ⟨rfl, rfl, rfl, rfl, rfl⟩ h.output h.sums (memRead_some_lt hx)
  case h_2 => exact inv_of_deliverU32 ht h.sound

theorem State.Inv.tickAdler {s t : State} (h : s.Inv) (hp : s.phase = .busy .adler) (ht : tickAdler s = .next t) :
    t.Inv := by
  unfold Machine.tickAdler at ht
  split at ht
  case h_1 x hx =>
    cases ht
    obtain ⟨ha, hb⟩ := s.adler.feed_range x
    exact h.goesOn hp ⟨rfl, rfl, rfl, rfl, rfl⟩ h.output ⟨Nat.le_of_lt_succ ha, Nat.le_of_lt_succ hb⟩ (memRead_some_lt hx)
  case h_2 => exact inv_of_deliverU32 ht h.sound

theorem State.Inv.tickFilter {s t : State} (h : s.Inv) (hp : s.phase = .busy .filter) (ht : tickFilter s = .next t) :
    t.Inv := by
  have hf := h.filterWalk hp
  unfold Machine.tickFilter at ht
  dsimp only at ht
  split at ht
  case h_1 hrow =>
    split at ht
    case isTrue => exact inv_of_deliverBytes ht h.sound
    case isFalse hlt =>
      obtain ⟨hfit, rfl⟩ := holdOutput_inv _ _ ht
      exact h.goesOn hp ⟨rfl, rfl, rfl, rfl, rfl⟩ hfit h.sums
        ⟨hf.image, hf.row, Nat.zero_le _, fun _ => Nat.lt_of_not_le hlt⟩
  case h_2 hbyte =>
    split at ht
    case isTrue hx =>
      split at ht
      case h_1 =>
        obtain ⟨hfit, rfl⟩ := holdOutput_inv _ _ ht
        exact h.goesOn hp ⟨rfl, rfl, rfl, rfl, rfl⟩ hfit h.sums
          ⟨hf.image, hf.row, hx, hf.inRow⟩
      case h_2 => cases ht
    case isFalse =>
      cases ht
      exact h.goesOn hp ⟨rfl, rfl, rfl, rfl, rfl⟩ h.output h.sums
        ⟨hf.image, hf.inRow hbyte, hf.offset, by simp⟩

theorem State.Inv.tickCompressor {s t : State} (h : s.Inv) (hp : s.phase = .busy .compressor)
    (ht : tickCompressor s = .next t) : t.Inv := by
  have he := h.encWalk hp
  have goesOn (e : EncRegs) (hi : EncInv (s.mem.input 0) e) : State.Inv { s with enc := e } :=
    h.goesOn hp ⟨rfl, rfl, rfl, rfl, rfl⟩ h.output h.sums hi
  unfold Machine.tickCompressor at ht
  dsimp only at ht
  split at ht
  case h_1 hpos =>
    split at ht
    case isTrue hend =>
      cases ht
      exact goesOn _ { pos := he.pos, scan := by simp, decide := by simp, done := fun _ => le_antisymm he.pos hend }
    case isFalse hlt =>
      cases ht
      by_cases h1 : 1 ≤ s.enc.i
      · have hmax : 1 ≤ maxDist s.enc.i := le_min h1 (by decide)
        exact goesOn _ { pos := he.pos, decide := by simp [h1], done := by simp [h1]
                         scan := fun _ => ⟨Nat.lt_of_not_le hlt, le_rfl, hmax, by simp, by simp, by simp, by simp⟩ }
      · exact goesOn _ { pos := he.pos, scan := by simp [h1], done := by simp [h1]
                         decide := fun _ => ⟨Nat.lt_of_not_le hlt, by simp, by simp, by simp⟩ }
  case h_2 hscan =>
    split at ht
    case isTrue hk =>
      split at ht
      case h_1 =>
        split at ht <;> cases ht
        case isTrue =>
          obtain ⟨hi, hd1, hdm, _, hrest⟩ := he.scan hscan
          exact goesOn _ { pos := he.pos, decide := by simp [hscan], done := by simp [hscan]
                           scan := fun _ => ⟨hi, hd1, hdm, hk, hrest⟩ }
        case isFalse => exact goesOn _ (he.nextCandidate hscan)
      case h_2 => cases ht
    case isFalse => cases ht; exact goesOn _ (he.nextCandidate hscan)
  case h_3 hdecide =>
    split at ht
    case isTrue => cases ht; exact goesOn _ (he.emitRef hdecide)
    case isFalse =>
      split at ht <;> cases ht
      case h_1 hb => exact goesOn _ (encInv_of_pos rfl (memRead_some_lt hb))
  case h_4 => exact inv_of_deliverBytes ht (h.sound.frame rfl rfl rfl h.output (adlerAfter_range _))

/-! ### One step of the decompressor -/

/-- A token that leaves the decompressor in RUN, inside the token region, keeps the invariant (R33). -/
theorem State.Inv.token {s t : State} (h : s.Inv) (hp : s.phase = .busy .decompressor) {w : Walk}
    (ht : holdOutput (s.afterWalk w) = .next t) (hd : w.regs.dph = .run) (hin : w.regs.p ≤ s.region.length) :
    t.Inv := by
  obtain ⟨hfit, rfl⟩ := holdOutput_inv _ _ ht
  exact h.goesOn hp ⟨rfl, rfl, rfl, rfl, rfl⟩ hfit h.sums (decInv_of_run hd hin)

theorem State.Inv.tickCopy {s t : State} (h : s.Inv) (hp : s.phase = .busy .decompressor) (hd : s.dec.dph = .copy)
    (ht : tickCopy s = .next t) : t.Inv := by
  have hr := h.decWalk hp
  obtain ⟨hd1, hdL, _, hlen, hin⟩ := hr.copy hd
  unfold Machine.tickCopy at ht
  dsimp only at ht
  split at ht
  case isTrue hk =>
    split at ht
    case h_1 =>
      obtain ⟨hfit, rfl⟩ := holdOutput_inv _ _ ht
      refine h.goesOn hp ⟨rfl, rfl, rfl, rfl, rfl⟩ hfit h.sums ?_
      exact { pos := hr.pos, check := by simp [hd]
              copy := fun _ => ⟨hd1, hdL, hk, by simp [hlen]; omega, hin⟩ }
    case h_2 => cases ht
  case isFalse =>
    cases ht
    exact h.goesOn hp ⟨rfl, rfl, rfl, rfl, rfl⟩ h.output h.sums (decInv_of_run rfl hin)

/-- A `REF` keeps the invariant, whole or by the start of its copy (R186, R187, R190). -/
theorem State.Inv.ref {s t : State} (h : s.Inv) (hp : s.phase = .busy .decompressor) (hd : s.dec.dph = .run)
    (dist : BitVec 16) (n : Byte) (hin : s.dec.p + 4 ≤ s.region.length) (ht : runToken (.ref dist n) s = .next t) :
    t.Inv := by
  have hat : s.atToken = true := s.atToken_iff.mpr ⟨hp, hd⟩
  cases hv : refValid s.mem.out.length dist n with
  | false =>
    rw [runToken_ref_of_invalid dist n s hat hv] at ht
    cases ht
    exact (h.sound.afterWalk _ h.output).failed _ (by simp)
  | true =>
    by_cases hg : s.grain = .micro
    · rw [runToken_ref_micro dist n s hv hg] at ht
      cases ht
      obtain ⟨hd0, hdL, _⟩ := (refValid_iff _ dist n).mp hv
      exact h.goesOn hp ⟨rfl, rfl, rfl, rfl, rfl⟩ h.output h.sums
        { pos := (h.decWalk hp).pos, check := fun hc => by cases hc
          copy := fun _ => ⟨Nat.pos_of_ne_zero hd0, hdL, Nat.zero_le _, rfl, hin⟩ }
    · rw [runToken_ref_whole dist n s hat hv hg] at ht
      exact h.token hp ht hd hin

/-- A step in RUN keeps the invariant (R182-R187, R190, R223). -/
theorem State.Inv.stepRun {s t : State} (h : s.Inv) (hp : s.phase = .busy .decompressor) (hd : s.dec.dph = .run)
    (ht : stepRun s = .next t) : t.Inv := by
  have hat : s.atToken = true := s.atToken_iff.mpr ⟨hp, hd⟩
  have truncated (e : DecodeReject) (hlt : s.dec.p < s.region.length)
      (he : decodeToken s.region s.dec.p = .error e) : t.Inv := by
    rw [stepRun_of_truncated s e hlt he] at ht
    cases ht
    exact h.sound.failed _ (by simp)
  obtain ⟨hend, _⟩ | ⟨hin, _, e⟩ | ⟨hin, _, e⟩ | ⟨hin, _, _, e⟩ | ⟨hin, _, _, _, e⟩ | ⟨hin, _, _, e⟩ :=
    decodeToken_cases s.region s.dec.p
  · rw [stepRun_of_end s hend] at ht
    cases ht
    exact h.goesOn hp ⟨rfl, rfl, rfl, rfl, rfl⟩ h.output h.sums
      { pos := (h.decWalk hp).pos, copy := fun hc => by cases hc
        check := fun _ => le_antisymm (h.decWalk hp).pos hend }
  · rw [stepRun_of_token s _ _ hin e, runToken_lit _ s hat] at ht
    exact h.token hp ht hd hin
  · exact truncated _ (by omega) e
  · rw [stepRun_of_token s _ _ (by omega) e, runToken_litff s hat] at ht
    exact h.token hp ht hd hin
  · exact truncated _ (by omega) e
  · rw [stepRun_of_token s _ _ (by omega) e] at ht
    exact h.ref hp hd _ _ hin ht

theorem State.Inv.stepBusy {s t : State} {w : Walker} (h : s.Inv) (hp : s.phase = .busy w)
    (ht : stepBusy w s = .next t) : t.Inv := by
  cases w with
  | crc => exact h.tickCrc hp ht
  | adler => exact h.tickAdler hp ht
  | filter => exact h.tickFilter hp ht
  | compressor => exact h.tickCompressor hp ht
  | decompressor =>
    simp only [Machine.stepBusy, tickDecompressor] at ht
    cases hd : s.dec.dph with
    | run => rw [hd] at ht; exact h.stepRun hp hd ht
    | copy => rw [hd] at ht; exact h.tickCopy hp hd ht
    | check => rw [hd] at ht; exact inv_of_checkTrailer ht h.sound

/-! ### Taking a command up -/

/-- An accepted command's buffers are within `BUF_CAP` when it is taken up (R78). -/
theorem State.Inv.accept_sound {s : State} (h : s.Inv) (sub : Submission) (rest : List Submission) (i : Instr)
    (hd : decodeCommand sub.desc = .ok i) (hw : whyRefused i (s.accept sub rest) = none) :
    (s.accept sub rest).Sound := by
  obtain ⟨⟨_, _, hfit⟩, _⟩ := (whyRefused_eq_none_iff i _).mp hw
  exact
    { inputs := by
        rw [Memory.wf, State.accept_inputs s sub rest i hd]
        exact List.all_eq_true.mpr hfit
      output := fits_zero _
      legal := h.legal
      results := h.results
      sums := h.sums }

/-- A walk starts within the invariant when its output, sums and registers are (R251). -/
theorem State.Sound.starts {s u : State} (h : s.Sound) (i : Instr) (hf : s.inFlight ≠ none)
    (hu : s.walkStart i = some u) (ho : fits s.cfg.bufCap u.mem.out.length = true)
    (ha : u.adler.a ≤ 65520 ∧ u.adler.b ≤ 65520) (hwalk : ∀ w, u.phase = .busy w → u.WalkInv w) : u.Inv := by
  obtain ⟨⟨w, hw⟩, hc, _, _, _, hr, hfl, hin⟩ := s.walkStart_frame u i hu
  exact (h.frame hc hr hin ho ha).inv (by simp [hw, hfl, hf]) hwalk

/-- The state in which the walk of a command begins meets the invariant, where the command completes as one transition. -/
theorem State.Sound.walkStart {s t u : State} (h : s.Sound) (i : Instr) (hm : s.mem.inputs = buffersOf i)
    (hf : s.inFlight ≠ none) (ht : exec i s = .next t) (hu : s.walkStart i = some u) : u.Inv := by
  cases i with
  | lit | litff | ref | writeChunk | makeIhdr | assemble | encodePng => cases hu
  | crc32 a b =>
    refine h.starts _ hf hu ?_ ?_ ?_ <;> cases hu
    · exact h.output
    · exact h.sums
    · rintro _ ⟨⟩; exact Nat.zero_le _
  | adler32 data =>
    refine h.starts _ hf hu ?_ ?_ ?_ <;> cases hu
    · exact h.output
    · exact adlerAfter_range []
    · rintro _ ⟨⟩; exact Nat.zero_le _
  | filter width height px =>
    have himage := (filter_image_of_exec ht).2
    have hpx : s.mem.input 0 = px := by rw [Memory.input, hm]; rfl
    refine h.starts _ hf hu ?_ ?_ ?_ <;> cases hu
    · exact fits_zero _
    · exact h.sums
    · rintro _ ⟨⟩
      refine ⟨?_, Nat.zero_le _, Nat.zero_le _, fun hc => by cases hc⟩
      exact (congrArg List.length hpx).trans himage
  | compress data =>
    have hw := exec_next_accepted _ s t rfl ht
    simp only [exec, execCompress, hw] at ht
    obtain ⟨⟨hfit, _⟩, _⟩ := deliverBytes_inv _ _ _ ht
    refine h.starts _ hf hu ?_ ?_ ?_ <;> cases hu
    · exact fits_mono _ (by simp [compress]) hfit
    · exact h.sums
    · rintro _ ⟨⟩; exact encInv_of_pos rfl (Nat.zero_le _)
  | decompress stream =>
    refine h.starts _ hf hu ?_ ?_ ?_ <;> simp only [State.walkStart] at hu <;> split at hu <;> cases hu
    · exact fits_zero _
    · exact h.sums
    · rintro _ ⟨⟩; exact decInv_of_run rfl (Nat.zero_le _)

/-- Taking a command up keeps the invariant, at every grain (R32). -/
theorem State.Inv.runCommand {s t : State} (h : s.Inv) (sub : Submission) (rest : List Submission) (i : Instr)
    (hd : decodeCommand sub.desc = .ok i) (ht : runCommand i (s.accept sub rest) = .next t) : t.Inv := by
  have hi := isToken_of_decodeCommand _ _ hd
  have sound {t' : State} (he : exec i (s.accept sub rest) = .next t') : (s.accept sub rest).Sound :=
    h.accept_sound sub rest i hd (exec_next_accepted i _ _ hi he)
  by_cases hg : (s.accept sub rest).grain = .command
  · rw [runCommand_of_command _ _ hg] at ht
    exact inv_of_exec ht hi (sound ht)
  · rw [runCommand_of_stepForm _ _ hg] at ht
    obtain e | ⟨t', u, he, hu, e⟩ := startCommand_cases i (s.accept sub rest) <;> rw [e] at ht
    · exact inv_of_exec ht hi (sound ht)
    · cases ht
      exact (sound he).walkStart i (s.accept_inputs sub rest i hd) (by simp) he hu

theorem State.Inv.stepIdle {s t : State} (h : s.Inv) (ht : stepIdle s = .next t) : t.Inv := by
  cases hi : s.issue with
  | nil => rw [stepIdle_nil s hi] at ht; cases ht; exact h
  | cons sub rest =>
    cases hd : decodeCommand sub.desc with
    | error e => rw [stepIdle_undecodable s sub rest e hi hd] at ht; cases ht
    | ok i => rw [stepIdle_presented s sub rest i hi hd] at ht; exact h.runCommand sub rest i hd ht

/-! ### Reset, and every step -/

/-- Settles O53: no buffer, no response, no sum yet, and nothing in flight. -/
theorem invariantHoldsAtReset : Obligations.InvariantHoldsAtReset := by
  have hs : State.reset.Sound :=
    { inputs := rfl
      output := rfl
      legal := by intro _ hr; cases hr
      results := by intro _ hr; cases hr
      sums := by decide }
  exact hs.inv (by decide) fun w hw => by cases hw

/-- Reset keeps the responses given and is otherwise the reset state, so it meets the invariant (R250, R252). -/
theorem State.Inv.doReset {s : State} (h : s.Inv) : s.doReset.Inv := by
  have hreset : State.reset.Inv := invariantHoldsAtReset
  have hs : s.doReset.Sound :=
    { inputs := rfl, output := fits_zero _, legal := h.legal, results := h.results, sums := hreset.sums }
  exact hs.inv hreset.phase fun w hw => by cases hw

/-- Settles O54, by the step that is taken: reset, taking a command up, or the step of the unit that walks. -/
theorem stepKeepsTheInvariant : Obligations.StepKeepsTheInvariant := by
  intro s t h ht
  cases hr : s.resetLine with
  | true => rw [step_of_resetLine s hr] at ht; cases ht; exact h.doReset
  | false =>
    cases hp : s.phase with
    | idle => rw [step_of_idle s hr hp] at ht; exact h.stepIdle ht
    | busy w => rw [step_of_busy s w hr hp] at ht; exact h.stepBusy hp ht

end Sys2Proof.Machine
end

section
/-! SUPPORT. Noninterference (R31, R44, R251): two states that differ only in registers and buffers that nothing in flight has set
run alike. The relation `State.alike` holds the unit that walks to the registers its walk has set, and every step keeps it. -/

namespace Sys2Proof.Machine

/-! ### States that run alike -/

theorem State.sameVisible.cfg_eq {s t : State} (h : s.sameVisible t) : s.cfg = t.cfg := h.1

theorem State.sameVisible.grain_eq {s t : State} (h : s.sameVisible t) : s.grain = t.grain := h.2.1

theorem State.sameVisible.phase_eq {s t : State} (h : s.sameVisible t) : s.phase = t.phase := h.2.2.2.2.2

/-- Encoder registers that the walk does not tell apart: outside SCAN and DECIDE those of the match finder are still to be set
(R161). -/
structure EncRegs.alike (a b : EncRegs) : Prop where
  i : a.i = b.i
  tok : a.tok = b.tok
  cph : a.cph = b.cph
  scan : a.cph = .scan → a = b
  decide : a.cph = .decide → a = b

/-- Decoder registers that the walk does not tell apart: outside COPY those of a `REF` are still to be set (R190). -/
structure DecRegs.alike (a b : DecRegs) : Prop where
  p : a.p = b.p
  dph : a.dph = b.dph
  copy : a.dph = .copy → a = b

/-- The registers of the unit that walks are alike. -/
abbrev State.regsAlike (s t : State) : Walker → Prop
  | .crc => s.crc = t.crc
  | .adler => s.adler = t.adler
  | .filter => s.fil = t.fil
  | .compressor => s.enc.alike t.enc
  | .decompressor => s.dec.alike t.dec

/-- Two states no run tells apart: what the host sees is the same, and while `Busy` so are the command, its buffers and what the
walk has set of its registers. -/
structure State.alike (s t : State) : Prop where
  visible : s.sameVisible t
  inFlight : s.phase ≠ .idle → s.inFlight = t.inFlight
  mem : s.phase ≠ .idle → s.mem = t.mem
  regs : ∀ w, s.phase = .busy w → s.regsAlike t w

/-- Two outcomes no run tells apart. -/
def alikeOutcome : Host.Outcome State Fault Refusal → Host.Outcome State Fault Refusal → Prop
  | .next s, .next t => s.alike t
  | .fault r, .fault q => r = q
  | .refused r, .refused q => r = q
  | _, _ => False

theorem sameOutcome_of_alikeOutcome {o q : Host.Outcome State Fault Refusal} (h : alikeOutcome o q) :
    sameOutcome o q := by
  cases o <;> cases q
  case next.next => exact State.alike.visible h
  all_goals exact h

/-- While `Idle`, only what the host sees matters. -/
theorem State.sameVisible.alike_of_idle {s t : State} (h : s.sameVisible t) (hp : s.phase = .idle) : s.alike t :=
  ⟨h, fun hn => absurd hp hn, fun hn => absurd hp hn, fun w hw => by rw [hp] at hw; cases hw⟩

/-! ### Commands -/

/-- The two states as a command is about to run: they look alike and hold the same command and buffers. -/
structure State.sameCall (s t : State) : Prop where
  visible : s.sameVisible t
  inFlight : s.inFlight = t.inFlight
  mem : s.mem = t.mem

section Deliver

variable {s t : State} (hv : s.sameVisible t)
include hv

theorem complete_alike (r : Response) : alikeOutcome (.next (s.complete r)) (.next (t.complete r)) := by
  obtain ⟨hc, hg, hl, hi, hr, _⟩ := hv
  have hvis : (s.complete r).sameVisible (t.complete r) := ⟨hc, hg, hl, hi, congrArg (· ++ [r]) hr, rfl⟩
  exact hvis.alike_of_idle rfl

theorem deliverU32_alike (v : U32) : alikeOutcome (deliverU32 v s) (deliverU32 v t) := complete_alike (by exact hv) _

theorem raise_alike (e : Status) : alikeOutcome (raise e s) (raise e t) := complete_alike (by exact hv) _

theorem deliverBytes_alike (hf : s.inFlight = t.inFlight) (b : Bytes) :
    alikeOutcome (deliverBytes b s) (deliverBytes b t) := by
  have hs : s.storage = t.storage := by rw [State.storage, State.storage, hf]
  unfold deliverBytes
  rw [← hs, ← hv.cfg_eq]
  split
  · split
    · exact complete_alike (by exact ⟨rfl, hv.2⟩) _
    · rfl
  · rfl

theorem checkTrailer_alike (hf : s.inFlight = t.inFlight) (hm : s.mem.out = t.mem.out) (stream : Bytes) :
    alikeOutcome (checkTrailer stream s) (checkTrailer stream t) := by
  unfold checkTrailer
  rw [← hm]
  dsimp only
  split
  · exact deliverBytes_alike (by exact hv) (by exact hf) _
  · exact raise_alike (by exact hv) _

end Deliver

theorem State.sameCall.whyRefused_eq {s t : State} (h : s.sameCall t) (i : Instr) :
    whyRefused i s = whyRefused i t := by
  obtain ⟨⟨hc, _, _, _, _, hp⟩, hf, _⟩ := h
  unfold whyRefused State.storage
  rw [hc, hp, hf]

/-- The output and the status of a token walk do not depend on the registers a `REF` sets (R251). -/
theorem Walk.loop_congr (T : Bytes) (fuel : Nat) (w v : Walk) (hp : w.regs.p = v.regs.p) (ho : w.out = v.out) :
    (Walk.loop T fuel w).1.out = (Walk.loop T fuel v).1.out ∧ (Walk.loop T fuel w).2 = (Walk.loop T fuel v).2 := by
  induction fuel generalizing w v with
  | zero => exact ⟨ho, rfl⟩
  | succ fuel ih =>
    have truncated (e : DecodeReject) (h : v.regs.p < T.length) (he : decodeToken T v.regs.p = .error e) :
        (Walk.loop T (fuel + 1) w).1.out = (Walk.loop T (fuel + 1) v).1.out
          ∧ (Walk.loop T (fuel + 1) w).2 = (Walk.loop T (fuel + 1) v).2 := by
      rw [Walk.loop_truncated T fuel w e (hp ▸ h) (hp ▸ he), Walk.loop_truncated T fuel v e h he]
      exact ⟨ho, rfl⟩
    obtain ⟨h, _⟩ | ⟨h, hb, _⟩ | ⟨h, _, e⟩ | ⟨h, hb, hb', _⟩ | ⟨h, _, _, _, e⟩ | ⟨h, hb, hb', _⟩ :=
      decodeToken_cases T v.regs.p
    · rw [Walk.loop_of_end T _ w (hp ▸ h), Walk.loop_of_end T _ v h]
      exact ⟨ho, rfl⟩
    · rw [Walk.loop_lit T fuel w (hp ▸ h) (hp ▸ hb), Walk.loop_lit T fuel v h hb, hp]
      exact ih _ _ (by simp [hp]) (by simp [ho])
    · exact truncated _ (by omega) e
    · rw [Walk.loop_litff T fuel w (hp ▸ h) (hp ▸ hb) (hp ▸ hb'), Walk.loop_litff T fuel v h hb hb']
      exact ih _ _ (by simp [hp]) (by simp [ho])
    · exact truncated _ (by omega) e
    · cases hv : refValid v.out.length (rdLe16 T (v.regs.p + 1)) (byteAt T (v.regs.p + 3)) with
      | true =>
        rw [Walk.loop_ref_valid T fuel v h hb hb' hv,
          Walk.loop_ref_valid T fuel w (hp ▸ h) (hp ▸ hb) (hp ▸ hb') (hp ▸ ho ▸ hv), hp]
        exact ih _ _ (by simp [hp]) (by simp [ho])
      | false =>
        rw [Walk.loop_ref_invalid T fuel v h hb hb' hv,
          Walk.loop_ref_invalid T fuel w (hp ▸ h) (hp ▸ hb) (hp ▸ hb') (hp ▸ ho ▸ hv)]
        exact ⟨ho, rfl⟩

theorem walkRegion_congr (T : Bytes) (r q : DecRegs) :
    (walkRegion T r).1.out = (walkRegion T q).1.out ∧ (walkRegion T r).2 = (walkRegion T q).2 :=
  Walk.loop_congr T _ _ _ rfl rfl

/-- The end of a token walk depends on its output and status only. -/
theorem endWalk_alike {s t : State} (h : s.sameCall t) (stream : Bytes) (w v : Walk) (e : Status)
    (ho : w.out = v.out) : alikeOutcome (endWalk stream s (w, e)) (endWalk stream t (v, e)) := by
  cases e with
  | ok => exact checkTrailer_alike (by exact h.visible) (by exact h.inFlight) (by exact ho) stream
  | malformedHeader | truncatedToken | invalidBackReference | checksumMismatch => exact raise_alike (by exact h.visible) _

theorem runDecompress_alike {s t : State} (h : s.sameCall t) (stream : Bytes) :
    alikeOutcome (runDecompress stream s) (runDecompress stream t) := by
  unfold runDecompress
  split
  · have hw := walkRegion_congr (tokenRegion stream) s.dec t.dec
    generalize walkRegion (tokenRegion stream) s.dec = a at hw ⊢
    generalize walkRegion (tokenRegion stream) t.dec = b at hw ⊢
    obtain ⟨w, e⟩ := a
    obtain ⟨v, q⟩ := b
    obtain ⟨ho, rfl⟩ := hw
    dsimp only at ho ⊢
    rw [← h.visible.cfg_eq, ← ho]
    split
    · exact endWalk_alike h stream w v e ho
    · rfl
  · exact raise_alike (by exact h.visible) _

/-- A command's outcome, as one transition, does not depend on the registers (R31, R44). -/
theorem exec_alike {s t : State} (h : s.sameCall t) (i : Instr) (hi : i.isToken = false) :
    alikeOutcome (exec i s) (exec i t) := by
  have hv := h.visible
  have hf := h.inFlight
  cases hw : whyRefused i s with
  | some r =>
    rw [exec_of_whyRefused i s r hi hw, exec_of_whyRefused i t r hi (h.whyRefused_eq i ▸ hw)]
    rfl
  | none =>
    have hw' := h.whyRefused_eq i ▸ hw
    cases i with
    | lit | litff | ref => cases hi
    | crc32 a b =>
      simp only [exec, execCrc32, hw, hw']
      exact deliverU32_alike (by exact hv) _
    | adler32 data =>
      simp only [exec, execAdler32, hw, hw']
      exact deliverU32_alike (by exact hv) _
    | filter width height px =>
      simp only [exec, execFilter, hw, hw']
      exact deliverBytes_alike (by exact hv) (by exact hf) _
    | compress data =>
      simp only [exec, execCompress, hw, hw']
      exact deliverBytes_alike (by exact hv) (by exact hf) _
    | decompress stream =>
      simp only [exec, execDecompress, hw, hw']
      exact runDecompress_alike h stream
    | writeChunk tag payload =>
      simp only [exec, execWriteChunk, hw, hw']
      exact deliverBytes_alike (by exact hv) (by exact hf) _
    | makeIhdr width height =>
      simp only [exec, execMakeIhdr, hw, hw']
      exact deliverBytes_alike (by exact hv) (by exact hf) _
    | assemble ihdr idat =>
      simp only [exec, execAssemble, hw, hw']
      exact deliverBytes_alike (by exact hv) (by exact hf) _
    | encodePng width height px =>
      have hpl : pipelineRefusal width height px s = pipelineRefusal width height px t := by
        simp only [pipelineRefusal, hv.cfg_eq]
      simp only [exec, execEncodePng, hw, hw', hpl]
      split
      · rfl
      · exact deliverBytes_alike (by exact hv) (by exact hf) _

/-- The walk of a command starts from alike registers, or neither state has one (R251). -/
theorem walkStart_alike {s t : State} (h : s.sameCall t) (i : Instr) :
    (s.walkStart i = none ∧ t.walkStart i = none)
      ∨ ∃ u v, s.walkStart i = some u ∧ t.walkStart i = some v ∧ u.alike v := by
  obtain ⟨⟨hc, hg, hl, hi, hr, _⟩, hf, hm⟩ := h
  have hin : s.mem.inputs = t.mem.inputs := by rw [hm]
  cases i with
  | lit | litff | ref | writeChunk | makeIhdr | assemble | encodePng => exact .inl ⟨rfl, rfl⟩
  | crc32 a b =>
    refine .inr ⟨_, _, rfl, rfl, ⟨hc, hg, hl, hi, hr, rfl⟩, fun _ => hf, fun _ => hm, ?_⟩
    rintro _ ⟨⟩
    rfl
  | adler32 data =>
    refine .inr ⟨_, _, rfl, rfl, ⟨hc, hg, hl, hi, hr, rfl⟩, fun _ => hf, fun _ => hm, ?_⟩
    rintro _ ⟨⟩
    rfl
  | filter width height px =>
    refine .inr ⟨_, _, rfl, rfl, ⟨hc, hg, hl, hi, hr, rfl⟩, fun _ => hf, fun _ => by simp only [hin], ?_⟩
    rintro _ ⟨⟩
    rfl
  | compress data =>
    refine .inr ⟨_, _, rfl, rfl, ⟨hc, hg, hl, hi, hr, rfl⟩, fun _ => hf, fun _ => by simp only [hin], ?_⟩
    rintro _ ⟨⟩
    exact ⟨rfl, rfl, rfl, nofun, nofun⟩
  | decompress stream =>
    simp only [State.walkStart]
    split
    · refine .inr ⟨_, _, rfl, rfl, ⟨hc, hg, hl, hi, hr, rfl⟩, fun _ => hf, fun _ => by simp only [hin], ?_⟩
      rintro _ ⟨⟩
      exact ⟨rfl, rfl, nofun⟩
    · exact .inl ⟨rfl, rfl⟩

theorem startCommand_alike {s t : State} (h : s.sameCall t) (i : Instr) (hi : i.isToken = false) :
    alikeOutcome (startCommand i s) (startCommand i t) := by
  have he := exec_alike h i hi
  unfold startCommand
  cases hs : exec i s <;> cases ht : exec i t <;> rw [hs, ht] at he
  case fault.fault | refused.refused => exact he
  case next.next =>
    obtain ⟨hs', ht'⟩ | ⟨u, v, hu, hv, huv⟩ := walkStart_alike h i
    · simp only [hs', ht']; exact he
    · simp only [hu, hv]; exact huv
  all_goals exact he.elim

theorem stepIdle_alike {s t : State} (hv : s.sameVisible t) (hp : s.phase = .idle) :
    alikeOutcome (stepIdle s) (stepIdle t) := by
  obtain ⟨hc, hg, hl, hi, hr, hph⟩ := hv
  cases his : s.issue with
  | nil =>
    rw [stepIdle_nil s his, stepIdle_nil t (hi ▸ his)]
    exact State.sameVisible.alike_of_idle ⟨hc, hg, hl, hi, hr, hph⟩ hp
  | cons sub rest =>
    have hit : t.issue = sub :: rest := hi ▸ his
    cases hd : decodeCommand sub.desc with
    | error e =>
      rw [stepIdle_undecodable s sub rest e his hd, stepIdle_undecodable t sub rest e hit hd]
      rfl
    | ok i =>
      rw [stepIdle_presented s sub rest i his hd, stepIdle_presented t sub rest i hit hd]
      have hcall : (s.accept sub rest).sameCall (t.accept sub rest) := ⟨⟨hc, hg, hl, rfl, hr, hph⟩, rfl, rfl⟩
      have htok := isToken_of_decodeCommand _ _ hd
      by_cases hgr : s.grain = .command
      · rw [runCommand_of_command i (s.accept sub rest) hgr, runCommand_of_command i (t.accept sub rest) (hg ▸ hgr)]
        exact exec_alike hcall i htok
      · rw [runCommand_of_stepForm i (s.accept sub rest) hgr,
          runCommand_of_stepForm i (t.accept sub rest) (hg ▸ hgr)]
        exact startCommand_alike hcall i htok

/-! ### Walks -/

/-- While `Busy`, alike states hold the same command and buffers. -/
theorem State.alike.sameCall {s t : State} {w : Walker} (h : s.alike t) (hw : s.phase = .busy w) : s.sameCall t :=
  have hbusy : s.phase ≠ .idle := by simp [hw]
  ⟨h.visible, h.inFlight hbusy, h.mem hbusy⟩

/-- A walk goes on alike when the registers of its unit are. -/
theorem State.sameCall.alike {s t : State} {w : Walker} (h : s.sameCall t) (hw : s.phase = .busy w)
    (hr : s.regsAlike t w) : s.alike t := by
  refine ⟨h.visible, fun _ => h.inFlight, fun _ => h.mem, fun w' hw' => ?_⟩
  rw [hw, Phase.busy.injEq] at hw'
  exact hw' ▸ hr

/-- Holding the output to `BUF_CAP` does not tell alike states apart. -/
theorem holdOutput_alike {s t : State} {w : Walker} (h : s.sameCall t) (hw : s.phase = .busy w)
    (hr : s.regsAlike t w) : alikeOutcome (holdOutput s) (holdOutput t) := by
  unfold holdOutput
  rw [← h.visible.cfg_eq, ← h.mem]
  split
  · exact h.alike hw hr
  · rfl

section Ticks

variable {s t : State} (h : s.sameCall t)
include h

theorem tickCrc_alike (hw : s.phase = .busy .crc) (hr : s.crc = t.crc) : alikeOutcome (tickCrc s) (tickCrc t) := by
  unfold tickCrc
  rw [← h.mem, ← hr]
  split
  · exact State.sameCall.alike (by exact ⟨h.visible, h.inFlight, rfl⟩) hw rfl
  · exact deliverU32_alike h.visible _

theorem tickAdler_alike (hw : s.phase = .busy .adler) (hr : s.adler = t.adler) :
    alikeOutcome (tickAdler s) (tickAdler t) := by
  unfold tickAdler
  rw [← h.mem, ← hr]
  split
  · exact State.sameCall.alike (by exact ⟨h.visible, h.inFlight, rfl⟩) hw rfl
  · exact deliverU32_alike h.visible _

theorem tickFilter_alike (hw : s.phase = .busy .filter) (hr : s.fil = t.fil) :
    alikeOutcome (tickFilter s) (tickFilter t) := by
  unfold tickFilter
  rw [← h.mem, ← hr]
  dsimp only
  split
  · split
    · exact deliverBytes_alike h.visible h.inFlight _
    · exact holdOutput_alike (by exact ⟨h.visible, h.inFlight, rfl⟩) hw rfl
  · split
    · split
      · exact holdOutput_alike (by exact ⟨h.visible, h.inFlight, rfl⟩) hw rfl
      · rfl
    · exact State.sameCall.alike (by exact ⟨h.visible, h.inFlight, rfl⟩) hw rfl

theorem tickCompressor_alike (hw : s.phase = .busy .compressor) (hr : s.enc.alike t.enc) :
    alikeOutcome (tickCompressor s) (tickCompressor t) := by
  have goesOn {a b : EncRegs} (hab : a.alike b) :
      alikeOutcome (.next { s with enc := a }) (.next { t with enc := b, mem := s.mem }) :=
    State.sameCall.alike (by exact ⟨h.visible, h.inFlight, rfl⟩) hw hab
  have same (e : EncRegs) : e.alike e := ⟨rfl, rfl, rfl, fun _ => rfl, fun _ => rfl⟩
  obtain ⟨hi, htok, hcph, hscan, hdecide⟩ := hr
  cases hc : s.enc.cph with
  | pos =>
    simp only [tickCompressor, hc, ← hcph, ← h.mem, ← hi, ← htok]
    split
    · exact goesOn (by exact ⟨rfl, rfl, rfl, nofun, nofun⟩)
    · exact goesOn (same _)
  | scan =>
    simp only [tickCompressor, hc, ← hscan hc, ← h.mem]
    split
    · split
      · split <;> exact goesOn (same _)
      · rfl
    · exact goesOn (same _)
  | decide =>
    simp only [tickCompressor, hc, ← hdecide hc, ← h.mem]
    split
    · exact goesOn (same _)
    · split
      · exact goesOn (same _)
      · rfl
  | done =>
    simp only [tickCompressor, hc, ← hcph, ← h.mem, ← htok]
    exact deliverBytes_alike (by exact h.visible) (by exact h.inFlight) _

/-! ### The decompressor -/

/-- A token's effect on the walk is the same for alike registers. -/
theorem token_alike (hw : s.phase = .busy .decompressor) {v w : Walk} (ho : v.out = w.out)
    (hr : v.regs.alike w.regs) : alikeOutcome (holdOutput (s.afterWalk v)) (holdOutput (t.afterWalk w)) := by
  have hm : (s.afterWalk v).mem = (t.afterWalk w).mem := by
    rw [State.afterWalk_mem, State.afterWalk_mem, h.mem, ho]
  exact holdOutput_alike (by exact ⟨h.visible, h.inFlight, hm⟩) hw hr

/-- A `REF` sets every register of R39 that it leaves, so its effect does not depend on them (R185-R187, R251). -/
theorem ref_alike (hw : s.phase = .busy .decompressor) (hs : s.dec.dph = .run) (hr : s.dec.alike t.dec)
    (dist : BitVec 16) (n : Byte) : alikeOutcome (runToken (.ref dist n) s) (runToken (.ref dist n) t) := by
  obtain ⟨hp, hd, _⟩ := hr
  have hgrain := h.visible.grain_eq
  have hats : s.atToken = true := s.atToken_iff.mpr ⟨hw, hs⟩
  have hatt : t.atToken = true := t.atToken_iff.mpr ⟨h.visible.phase_eq ▸ hw, hd ▸ hs⟩
  cases hv : refValid s.mem.out.length dist n with
  | false =>
    rw [runToken_ref_of_invalid dist n s hats hv, runToken_ref_of_invalid dist n t hatt (h.mem ▸ hv)]
    exact raise_alike (s := s.afterWalk _) (t := t.afterWalk _) h.visible _
  | true =>
    by_cases hg : s.grain = .micro
    · rw [runToken_ref_micro dist n s hv hg, runToken_ref_micro dist n t (h.mem ▸ hv) (hgrain ▸ hg)]
      have hl : s.latchRef dist n = t.latchRef dist n := by simp only [State.latchRef, hp, h.mem]
      exact State.sameCall.alike (by exact ⟨h.visible, h.inFlight, h.mem⟩) hw
        (by exact ⟨congrArg _ hl, congrArg _ hl, fun _ => hl⟩)
    · rw [runToken_ref_whole dist n s hats hv hg, runToken_ref_whole dist n t hatt (h.mem ▸ hv) (hgrain ▸ hg)]
      have hrun : (s.walk.fetchRef dist n).runRef = (t.walk.fetchRef dist n).runRef := by
        simp only [Walk.runRef, Walk.fetchRef, State.walk, hp, hd, h.mem]
      rw [hrun]
      exact token_alike h hw rfl ⟨rfl, rfl, fun _ => rfl⟩

theorem stepRun_alike (hw : s.phase = .busy .decompressor) (hs : s.dec.dph = .run) (hr : s.dec.alike t.dec) :
    alikeOutcome (stepRun s) (stepRun t) := by
  obtain ⟨hp, hd, _⟩ := id hr
  have hats : s.atToken = true := s.atToken_iff.mpr ⟨hw, hs⟩
  have hatt : t.atToken = true := t.atToken_iff.mpr ⟨h.visible.phase_eq ▸ hw, hd ▸ hs⟩
  have hreg : s.region = t.region := by rw [State.region, State.region, h.mem]
  have hrun {v w : DecRegs} (hpv : v.p = w.p) (hv : v.dph = .run) (hwd : w.dph = .run) : v.alike w :=
    ⟨hpv, hv.trans hwd.symm, fun hc => by rw [hv] at hc; cases hc⟩
  have truncated (e : DecodeReject) (hin : s.dec.p < s.region.length)
      (he : decodeToken s.region s.dec.p = .error e) : alikeOutcome (stepRun s) (stepRun t) := by
    rw [stepRun_of_truncated s e hin he, stepRun_of_truncated t e (hreg ▸ hp ▸ hin) (hreg ▸ hp ▸ he)]
    exact raise_alike h.visible _
  have token (i : Instr) (size : Nat) (hin : s.dec.p < s.region.length)
      (he : decodeToken s.region s.dec.p = .ok (i, size)) (ho : alikeOutcome (runToken i s) (runToken i t)) :
      alikeOutcome (stepRun s) (stepRun t) := by
    rwa [stepRun_of_token s i size hin he, stepRun_of_token t i size (hreg ▸ hp ▸ hin) (hreg ▸ hp ▸ he)]
  obtain ⟨hend, _⟩ | ⟨hin, _, e⟩ | ⟨hin, _, e⟩ | ⟨hin, _, _, e⟩ | ⟨hin, _, _, _, e⟩ | ⟨hin, _, _, e⟩ :=
    decodeToken_cases s.region s.dec.p
  · rw [stepRun_of_end s hend, stepRun_of_end t (hreg ▸ hp ▸ hend)]
    exact State.sameCall.alike (by exact ⟨h.visible, h.inFlight, h.mem⟩) hw
      (by exact ⟨hp, rfl, fun hc => by cases hc⟩)
  · refine token _ _ hin e ?_
    rw [runToken_lit _ s hats, runToken_lit _ t hatt]
    exact token_alike h hw (by simp [h.mem]) (hrun (by simp [hp]) hs (hd ▸ hs))
  · exact truncated _ (by omega) e
  · refine token _ _ (by omega) e ?_
    rw [runToken_litff s hats, runToken_litff t hatt]
    exact token_alike h hw (by simp [h.mem]) (hrun (by simp [hp]) hs (hd ▸ hs))
  · exact truncated _ (by omega) e
  · exact token _ _ (by omega) e (ref_alike h hw hs hr _ _)

theorem tickCopy_alike (hw : s.phase = .busy .decompressor) (hr : s.dec = t.dec) :
    alikeOutcome (tickCopy s) (tickCopy t) := by
  unfold tickCopy
  rw [← h.mem, ← hr]
  dsimp only
  have same (r : DecRegs) : r.alike r := ⟨rfl, rfl, fun _ => rfl⟩
  split
  · split
    · exact holdOutput_alike (by exact ⟨h.visible, h.inFlight, rfl⟩) hw (same _)
    · rfl
  · exact State.sameCall.alike (by exact ⟨h.visible, h.inFlight, rfl⟩) hw (same _)

theorem tickDecompressor_alike (hw : s.phase = .busy .decompressor) (hr : s.dec.alike t.dec) :
    alikeOutcome (tickDecompressor s) (tickDecompressor t) := by
  unfold tickDecompressor
  rw [← hr.dph]
  cases hd : s.dec.dph with
  | run => exact stepRun_alike h hw hd hr
  | copy => exact tickCopy_alike h hw (hr.copy hd)
  | check =>
    dsimp only
    rw [← h.mem]
    exact checkTrailer_alike h.visible h.inFlight (by rw [h.mem]) _

end Ticks

/-! ### Every step, and every run -/

theorem step_alike {s t : State} (h : s.alike t) : alikeOutcome (step s) (step t) := by
  obtain ⟨hc, hg, hl, hi, hres, hp⟩ := h.visible
  cases hr : s.resetLine with
  | true =>
    rw [step_of_resetLine s hr, step_of_resetLine t (hl ▸ hr)]
    have hv : s.doReset.sameVisible t.doReset := ⟨hc, hg, rfl, hi, hres, rfl⟩
    exact hv.alike_of_idle rfl
  | false =>
    cases hw : s.phase with
    | idle =>
      rw [step_of_idle s hr hw, step_of_idle t (hl ▸ hr) (hp ▸ hw)]
      exact stepIdle_alike h.visible hw
    | busy w =>
      rw [step_of_busy s w hr hw, step_of_busy t w (hl ▸ hr) (hp ▸ hw)]
      have hcall := h.sameCall hw
      have hregs := h.regs w hw
      cases w with
      | crc => exact tickCrc_alike hcall hw hregs
      | adler => exact tickAdler_alike hcall hw hregs
      | filter => exact tickFilter_alike hcall hw hregs
      | compressor => exact tickCompressor_alike hcall hw hregs
      | decompressor => exact tickDecompressor_alike hcall hw hregs

theorem run_alike (k : Nat) {s t : State} (h : s.alike t) :
    alikeOutcome (Sys2Proof.core.run k s) (Sys2Proof.core.run k t) := by
  induction k generalizing s t with
  | zero => exact h
  | succ k ih =>
    have hstep := step_alike h
    cases hs : step s <;> cases ht : step t <;> rw [hs, ht] at hstep
    case next.next s' t' =>
      rw [run_of_next k s s' hs, run_of_next k t t' ht]
      exact ih hstep
    case fault.fault r q =>
      rw [run_of_fault k s r hs, run_of_fault k t q ht]
      exact hstep
    case refused.refused r q =>
      rw [run_of_refused k s r hs, run_of_refused k t q ht]
      exact hstep
    all_goals exact hstep.elim

/-- Settles O56: while `Idle`, states that look alike are alike, and every step keeps that. -/
theorem registersNeverReachAResponse : Obligations.RegistersNeverReachAResponse := by
  intro s t k hv hp
  exact sameOutcome_of_alikeOutcome (run_alike k (hv.alike_of_idle hp))

end Sys2Proof.Machine
end

section
/-! SUPPORT. The step forms of the Checksum Unit and the Scanline Filter end in the outcome of the one transition (R44, R121, R124,
R140): each loop is an induction over what is left of its data. -/

namespace Sys2Proof.Machine

/-! ### Runs that reach an outcome -/

/-- Some number of steps from `s` ends in the outcome `o`. -/
def State.Reaches (s : State) (o : Host.Outcome State Fault Refusal) : Prop := ∃ k, Sys2Proof.core.run k s = o

/-- One step reaches its own outcome. -/
theorem State.reaches_step (s : State) : s.Reaches (step s) := by
  refine ⟨1, ?_⟩
  cases h : step s with
  | next t => exact run_of_next 0 s t h
  | fault r => exact run_of_fault 0 s r h
  | refused r => exact run_of_refused 0 s r h

/-- A step can be taken first. -/
theorem State.Reaches.of_step {s s' : State} {o : Host.Outcome State Fault Refusal} (hr : s'.Reaches o)
    (h : step s = .next s') : s.Reaches o := by
  obtain ⟨k, hk⟩ := hr
  exact ⟨k + 1, (run_of_next k s s' h).trans hk⟩

/-- Where the walk of an accepted command ends in the command's outcome, so does the run that accepts it; a command that is
refused, or has no walk, is one step (R229, log 26). -/
theorem State.startsByStepForm.reaches {s : State} {sub : Submission} {rest : List Submission} {i : Instr}
    (h : s.startsByStepForm sub rest i)
    (hwalk : ∀ acc t u : State, acc.resetLine = false → acc.mem.inputs = buffersOf i → exec i acc = .next t →
      acc.walkStart i = some u → u.Reaches (exec i acc)) :
    s.Reaches (exec i (s.accept sub rest)) := by
  obtain ⟨hr, hp, hi, hd, hg⟩ := h
  have hstep : step s = startCommand i (s.accept sub rest) := by
    rw [step_of_idle s hr hp, stepIdle_presented s sub rest i hi hd,
      runCommand_of_stepForm i (s.accept sub rest) hg]
  obtain e | ⟨t, u, he, hu, e⟩ := startCommand_cases i (s.accept sub rest)
  · rw [← e, ← hstep]
    exact s.reaches_step
  · exact (hwalk (s.accept sub rest) t u hr (s.accept_inputs sub rest i hd) he hu).of_step (hstep.trans e)

/-! ### The Checksum Unit -/

/-- The loop of R121 over what is left of the buffer. -/
theorem crc_reaches (s : State) (hr : s.resetLine = false) (hp : s.phase = .busy .crc) (rest pre : Bytes)
    (hd : s.mem.inputs.flatten = pre ++ rest) :
    State.Reaches { s with crc := crcAfter pre }
      (deliverU32 (crc32 (pre ++ rest)) { s with crc := crcAfter (pre ++ rest) }) := by
  have hstep (r : CrcRegs) : step { s with crc := r } = tickCrc { s with crc := r } :=
    step_of_busy { s with crc := r } .crc hr hp
  induction rest generalizing pre with
  | nil =>
    have ht : tickCrc { s with crc := crcAfter pre }
        = deliverU32 (crc32 (pre ++ [])) { s with crc := crcAfter (pre ++ []) } := by
      simp [tickCrc, memRead, hd, crcAfter_j, crc32]
    rw [← ht, ← hstep]
    exact State.reaches_step _
  | cons x rest ih =>
    have ht : tickCrc { s with crc := crcAfter pre } = .next { s with crc := crcAfter (pre ++ [x]) } := by
      simp [tickCrc, memRead, hd, crcAfter_j, crcAfter_append]
    have hnext := ih (pre ++ [x]) (by simp [hd])
    rw [List.append_assoc, List.singleton_append] at hnext
    exact hnext.of_step ((hstep _).trans ht)

/-- The loop of R124 over what is left of the buffer. -/
theorem adler_reaches (s : State) (hr : s.resetLine = false) (hp : s.phase = .busy .adler) (rest pre : Bytes)
    (hd : s.mem.input 0 = pre ++ rest) :
    State.Reaches { s with adler := adlerAfter pre }
      (deliverU32 (adler32 (pre ++ rest)) { s with adler := adlerAfter (pre ++ rest) }) := by
  have hstep (r : AdlerRegs) : step { s with adler := r } = tickAdler { s with adler := r } :=
    step_of_busy { s with adler := r } .adler hr hp
  induction rest generalizing pre with
  | nil =>
    have ht : tickAdler { s with adler := adlerAfter pre }
        = deliverU32 (adler32 (pre ++ [])) { s with adler := adlerAfter (pre ++ []) } := by
      simp [tickAdler, memRead, hd, adlerAfter_j, adler32]
    rw [← ht, ← hstep]
    exact State.reaches_step _
  | cons x rest ih =>
    have ht : tickAdler { s with adler := adlerAfter pre } = .next { s with adler := adlerAfter (pre ++ [x]) } := by
      simp [tickAdler, memRead, hd, adlerAfter_j, adlerAfter_append]
    have hnext := ih (pre ++ [x]) (by simp [hd])
    rw [List.append_assoc, List.singleton_append] at hnext
    exact hnext.of_step ((hstep _).trans ht)

/-! ### The Scanline Filter -/

/-- A slice is read at its own offset. -/
theorem byteAt_slice (s : Bytes) (a b i : Nat) (h : a + i < b) : byteAt (slice s a b) i = byteAt s (a + i) := by
  have hi : i < b - a := by omega
  simp [byteAt, slice, List.getD_eq_getElem?_getD, hi]

/-- One more row is filtered after the rows before it (R140). -/
theorem filterImage_succ (width r : Nat) (pixels : Bytes) :
    filterImage width (r + 1) pixels = filterImage width r pixels
      ++ filterRow (rowBytes width) (slice pixels (r * rowBytes width) ((r + 1) * rowBytes width)) := by
  simp [filterImage, List.range_succ]

/-- A row's bytes are within the room of the whole image. -/
theorem filterImage_row_le (width height r : Nat) (pixels : Bytes) (h : r < height) :
    (filterImage width r pixels).length + (1 + rowBytes width) ≤ (filterImage width height pixels).length := by
  rw [filterImage_length, filterImage_length, ← Nat.succ_mul]
  exact Nat.mul_le_mul_right _ h

/-- What the walk reads at offset `x` of row `r` is the byte the filter emits there (R140, R143). -/
theorem filterRead_eq (pixels : Bytes) (f : FilterRegs) (hlen : (f.r + 1) * rowBytes f.width ≤ pixels.length)
    (hx : f.x < rowBytes f.width) :
    filterRead pixels f
      = some (subByte (slice pixels (f.r * rowBytes f.width) ((f.r + 1) * rowBytes f.width)) f.x) := by
  have hrow : (f.r + 1) * rowBytes f.width = f.r * rowBytes f.width + rowBytes f.width := Nat.succ_mul _ _
  unfold filterRead subByte
  rw [byteAt_slice _ _ _ _ (by omega)]
  dsimp only
  split
  · exact memRead_eq_some _ _ (by omega)
  · have hsub : f.r * rowBytes f.width + f.x - Config.bpp = f.r * rowBytes f.width + (f.x - Config.bpp) := by omega
    rw [byteAt_slice _ _ _ _ (by omega), memRead_eq_some _ _ (by omega), memRead_eq_some _ _ (by omega), hsub]

/-- The filter's walk at given registers with a given output. -/
def State.filterAt (s : State) (f : FilterRegs) (out : Bytes) : State :=
  { s with fil := f, mem := { s.mem with out := out } }

section FilterWalk

variable {s : State} (hr : s.resetLine = false) (hp : s.phase = .busy .filter) {width height : Nat} {pixels : Bytes}
  (hin : s.mem.input 0 = pixels) (himage : pixels.length = height * rowBytes width)
  (hfit : fits s.cfg.bufCap (filterImage width height pixels).length = true) {o : Host.Outcome State Fault Refusal}
include hr hp

theorem State.filterAt_step (f : FilterRegs) (out : Bytes) : step (s.filterAt f out) = tickFilter (s.filterAt f out) :=
  step_of_busy (s.filterAt f out) .filter hr hp

/-- A byte is appended to the output where it fits `BUF_CAP`. -/
theorem State.filterAt_append (f g : FilterRegs) (out v : Bytes) (hv : fits s.cfg.bufCap (out ++ v).length = true)
    (ht : tickFilter (s.filterAt f out) = holdOutput (s.filterAt g (out ++ v)))
    (ho : (s.filterAt g (out ++ v)).Reaches o) : (s.filterAt f out).Reaches o := by
  refine ho.of_step ?_
  rw [State.filterAt_step hr hp, ht, holdOutput]
  exact if_pos hv

include hin himage hfit

/-- The bytes of a row, over what is left of it. -/
theorem filterBytes_reach (r : Nat) (hrow : r < height) (n x : Nat) (hx : x + n = rowBytes width)
    (ho : (s.filterAt ⟨width, height, r + 1, rowBytes width, .row⟩ (filterImage width (r + 1) pixels)).Reaches o) :
    (s.filterAt ⟨width, height, r, x, .byte⟩ (filterImage width r pixels ++ Config.filterSub ::
      (List.range x).map (subByte (slice pixels (r * rowBytes width) ((r + 1) * rowBytes width))))).Reaches o := by
  induction n generalizing x with
  | zero =>
    obtain rfl : x = rowBytes width := hx
    rw [filterImage_succ, filterRow] at ho
    refine ho.of_step ?_
    rw [State.filterAt_step hr hp]
    simp [tickFilter, State.filterAt]
  | succ n ih =>
    have hlt : x < rowBytes width := by omega
    have hle : (r + 1) * rowBytes width ≤ pixels.length := himage ▸ Nat.mul_le_mul_right _ hrow
    have hread := filterRead_eq pixels ⟨width, height, r, x, .byte⟩ hle hlt
    have hnext := ih (x + 1) (by omega)
    rw [List.range_succ, List.map_append, ← List.cons_append, ← List.append_assoc] at hnext
    refine State.filterAt_append hr hp _ _ _ _ ?_ ?_ hnext
    · refine fits_mono _ (le_trans ?_ (filterImage_row_le width height r pixels hrow)) hfit
      simp only [List.length_append, List.length_cons, List.length_map, List.length_range, List.length_nil]
      omega
    · have hmem (out : Bytes) : Memory.input ⟨s.mem.inputs, out⟩ 0 = pixels := hin
      simp [tickFilter, State.filterAt, hlt, hmem, hread, Memory.write]

/-- The rows of the image, over what is left of it. -/
theorem filterRows_reach (n r x : Nat) (hn : r + n = height) (hx : r = height → x = rowBytes width) :
    (s.filterAt ⟨width, height, r, x, .row⟩ (filterImage width r pixels)).Reaches
      (deliverBytes (filterImage width height pixels)
        (s.filterAt (filterEnd width height) (filterImage width height pixels))) := by
  induction n generalizing r x with
  | zero =>
    obtain rfl : r = height := hn
    obtain rfl := hx rfl
    have ht : tickFilter (s.filterAt (filterEnd width r) (filterImage width r pixels))
        = deliverBytes (filterImage width r pixels)
            (s.filterAt (filterEnd width r) (filterImage width r pixels)) := by
      simp [tickFilter, State.filterAt, filterEnd]
    rw [← ht, ← State.filterAt_step hr hp]
    exact State.reaches_step _
  | succ n ih =>
    have hrow : r < height := by omega
    have hrest := ih (r + 1) (rowBytes width) (by omega) (fun _ => rfl)
    have hbytes := filterBytes_reach hr hp hin himage hfit r hrow (rowBytes width) 0 (by omega) hrest
    refine State.filterAt_append hr hp _ _ _ [Config.filterSub] ?_ ?_ hbytes
    · refine fits_mono _ (le_trans ?_ (filterImage_row_le width height r pixels hrow)) hfit
      simp
    · simp [tickFilter, State.filterAt, Nat.not_le_of_lt hrow, Memory.write]

end FilterWalk

/-- Settles O57: each walk is an induction over what is left of its buffer, from the registers it starts with. -/
theorem checksumAndFilterStepFormsAgree : Obligations.ChecksumAndFilterStepFormsAgree := by
  intro s sub rest i h hi
  refine h.reaches fun acc t u hr hm he hu => ?_
  obtain ⟨a, b, rfl⟩ | ⟨data, rfl⟩ | ⟨width, height, px, rfl⟩ := hi
  · cases hu
    rw [exec, execCrc32, exec_next_accepted _ acc t rfl he]
    have hd : acc.mem.inputs.flatten = a ++ b := by rw [hm]; simp [buffersOf, encode, byteOperands]
    exact crc_reaches { acc with phase := .busy .crc } hr rfl (a ++ b) [] hd
  · cases hu
    rw [exec, execAdler32, exec_next_accepted _ acc t rfl he]
    have hd : acc.mem.input 0 = data := by rw [Memory.input, hm]; rfl
    exact adler_reaches { acc with phase := .busy .adler } hr rfl data [] hd
  · cases hu
    obtain ⟨hpos, himage⟩ := filter_image_of_exec he
    have hwhy := exec_next_accepted _ acc t rfl he
    rw [exec, execFilter, hwhy] at he ⊢
    obtain ⟨⟨hfit, _⟩, _⟩ := deliverBytes_inv _ _ _ he
    have hd : acc.mem.input 0 = px := by rw [Memory.input, hm]; rfl
    exact filterRows_reach (s := { acc with phase := .busy .filter }) hr rfl hd himage hfit height.toNat 0 0
      (Nat.zero_add _) (by omega)

end Sys2Proof.Machine
end

section
/-! SUPPORT. The step form of the compressor ends in the outcome of COMPRESS as one transition (R44, R161): the scan of one
candidate, the candidates of one position and the positions are three inductions over the function form's own loops. -/

namespace Sys2Proof.Machine

/-! ### The token bytes of the function form -/

/-- What the loop of R150 emits depends on the position and on what was emitted before, not on the match-finder registers
(R251). -/
theorem EncRegs.loop_tok_congr (data : Bytes) (fuel : Nat) (e f : EncRegs) (hi : e.i = f.i) (ht : e.tok = f.tok) :
    (EncRegs.loop data fuel e).tok = (EncRegs.loop data fuel f).tok := by
  induction fuel generalizing e f with
  | zero => exact ht
  | succ fuel ih =>
    have hvisit : (e.visit data).i = (f.visit data).i ∧ (e.visit data).tok = (f.visit data).tok := by
      obtain ⟨h, htok, hpos⟩ | ⟨h, htok, hpos⟩ := EncRegs.visit_cases data e <;>
        obtain ⟨h', htok', hpos'⟩ | ⟨h', htok', hpos'⟩ := EncRegs.visit_cases data f <;> rw [hi] at h
      · rw [hpos, hpos', htok, htok', hi, ht]; exact ⟨rfl, rfl⟩
      · rw [h] at h'; cases h'
      · rw [h] at h'; cases h'
      · rw [hpos, hpos', htok, htok', hi, ht]; exact ⟨rfl, rfl⟩
    simp only [EncRegs.loop, hi]
    split
    · exact ih _ _ hvisit.1 hvisit.2
    · exact ht

/-- COMPRESS emits the same tokens whatever the encoder's registers held (R31, R150). -/
theorem EncRegs.compressed_tok (data : Bytes) (e : EncRegs) : (e.compressed data).tok = tokensOf data :=
  EncRegs.loop_tok_congr data data.length e.start State.reset.enc.start rfl rfl

/-- Every turn of the loop ends in POS (R161). -/
theorem EncRegs.visit_cph (data : Bytes) (e : EncRegs) : (e.visit data).cph = .pos := by
  unfold EncRegs.visit
  dsimp only
  split <;> rfl

/-! ### The registers along a walk -/

/-- The encoder as POS starts the scan of the nearest candidate (R161). -/
def EncRegs.opened (e : EncRegs) : EncRegs := { e with bestLen := 0, bestDist := 0, d := 1, k := 0, cph := .scan }

/-- The encoder when every candidate at its position has been tried (R161). -/
def EncRegs.searched (data : Bytes) (e : EncRegs) : EncRegs := { e.search data with cph := .decide }

/-- The encoder when the candidates from `d` on, `more + 1` in number, have been tried in SCAN (R154, R161). -/
def EncRegs.tried (data : Bytes) (e : EncRegs) (more : Nat) : EncRegs :=
  let best := findMatchFrom data e.i (more + 1) e.d (e.bestLen, e.bestDist)
  { e with bestLen := best.1, bestDist := best.2, d := maxDist e.i, k := matchLen data e.i (maxDist e.i), cph := .decide }

/-- The encoder when the candidate at `d` has been measured (R152, R161). -/
def EncRegs.measured (data : Bytes) (e : EncRegs) : EncRegs := { e with k := matchLen data e.i e.d }

/-- The last candidate ends the search (R161). -/
theorem EncRegs.measured_next_last (data : Bytes) (e : EncRegs) (hd : e.d = maxDist e.i) :
    (e.measured data).nextCandidate = e.tried data 0 := by
  simp [EncRegs.nextCandidate, EncRegs.measured, EncRegs.tried, hd, findMatchFrom]

/-- A candidate before the last one is followed by the next distance (R161). -/
theorem EncRegs.measured_next (data : Bytes) (e : EncRegs) (hd : e.d < maxDist e.i) :
    (e.measured data).nextCandidate.cph = e.cph ∧ (e.measured data).nextCandidate.i = e.i
      ∧ (e.measured data).nextCandidate.d = e.d + 1 ∧ (e.measured data).nextCandidate.k = 0 := by
  simp [EncRegs.nextCandidate, EncRegs.measured, hd]

/-- A candidate before the last one leaves the others to try (R154). -/
theorem EncRegs.measured_next_tried (data : Bytes) (e : EncRegs) (hd : e.d < maxDist e.i) (more : Nat) :
    (e.measured data).nextCandidate.tried data more = e.tried data (more + 1) := by
  simp [EncRegs.nextCandidate, EncRegs.measured, EncRegs.tried, hd, findMatchFrom]

/-- All the candidates from the nearest one are those of `find_match` (R153, R154). -/
theorem EncRegs.opened_tried (data : Bytes) (e : EncRegs) (h : 1 ≤ maxDist e.i) :
    e.opened.tried data (maxDist e.i - 1) = e.searched data := by
  have hi : 1 ≤ e.i := h.trans (Nat.min_le_left _ _)
  simp [EncRegs.opened, EncRegs.tried, EncRegs.searched, EncRegs.search, findMatch, hi, Nat.sub_add_cancel h]

/-- At the start of the data there is no candidate (R153). -/
theorem EncRegs.searched_of_zero (data : Bytes) (e : EncRegs) (h : e.i = 0) :
    e.searched data = { e.opened with cph := .decide } := by
  simp [EncRegs.opened, EncRegs.searched, EncRegs.search, h, findMatch, maxDist, findMatchFrom]

theorem maxDist_le (i : Nat) : maxDist i ≤ i := Nat.min_le_left _ _

/-- The compressor's walk at given registers. -/
def State.encAt (s : State) (e : EncRegs) : State := { s with enc := e }

section CompressorWalk

variable {s : State} (hr : s.resetLine = false) (hp : s.phase = .busy .compressor) {data : Bytes}
  (hin : s.mem.input 0 = data) {o : Host.Outcome State Fault Refusal}
include hr hp

theorem State.encAt_step (e : EncRegs) : step (s.encAt e) = tickCompressor (s.encAt e) :=
  step_of_busy (s.encAt e) .compressor hr hp

theorem State.encAt_goesOn {e f : EncRegs} (ho : (s.encAt f).Reaches o)
    (ht : tickCompressor (s.encAt e) = .next (s.encAt f)) : (s.encAt e).Reaches o :=
  ho.of_step ((State.encAt_step hr hp e).trans ht)

include hin

/-- The scan of one candidate is the loop of `match_len` (R152, R161). -/
theorem scan_reaches (fuel : Nat) (e : EncRegs) (hc : e.cph = .scan) (hi : e.i < data.length) (hd : 1 ≤ e.d)
    (hdi : e.d ≤ e.i) (hk : e.k + fuel = matchLimit data e.i)
    (ho : (s.encAt { e with k := matchLenFrom data e.i e.d fuel e.k }.nextCandidate).Reaches o) :
    (s.encAt e).Reaches o := by
  induction fuel generalizing e with
  | zero =>
    refine State.encAt_goesOn hr hp (f := e.nextCandidate) ho ?_
    have hend : ¬ e.k < matchLimit data e.i := by omega
    simp [tickCompressor, State.encAt, hc, hin, hend]
  | succ fuel ih =>
    have hlt : e.k < matchLimit data e.i := by omega
    have hlim := matchLimit_le data e.i
    have hmod : e.k % e.d < e.d := Nat.mod_lt _ hd
    have hread := memRead_eq_some data (e.i + e.k) (by omega)
    have hback := memRead_eq_some data (e.i - e.d + e.k % e.d) (by omega)
    simp only [matchLenFrom] at ho
    by_cases heq : matchesAt data e.i e.d e.k = true
    · rw [if_pos heq] at ho
      refine State.encAt_goesOn hr hp (ih { e with k := e.k + 1 } hc hi hd hdi (by simp; omega) ho) ?_
      have hbyte := of_decide_eq_true heq
      simp [tickCompressor, State.encAt, hc, hin, hlt, hread, hback, hbyte]
    · rw [if_neg heq] at ho
      refine State.encAt_goesOn hr hp (f := e.nextCandidate) ho ?_
      have hbyte : ¬ byteAt data (e.i + e.k) = byteAt data (e.i - e.d + e.k % e.d) := fun h => heq (decide_eq_true h)
      simp [tickCompressor, State.encAt, hc, hin, hlt, hread, hback, hbyte]

/-- A candidate is scanned from its first byte (R161). -/
theorem candidate_reaches (e : EncRegs) (hc : e.cph = .scan) (hi : e.i < data.length) (hd : 1 ≤ e.d)
    (hdm : e.d ≤ maxDist e.i) (hk : e.k = 0) (ho : (s.encAt (e.measured data).nextCandidate).Reaches o) :
    (s.encAt e).Reaches o := by
  refine scan_reaches hr hp hin (matchLimit data e.i) e hc hi hd (hdm.trans (maxDist_le e.i)) (by omega) ?_
  rw [hk]
  exact ho

/-- The candidates of one position are the loop of `find_match` (R154, R161). -/
theorem candidates_reach (more : Nat) (e : EncRegs) (hc : e.cph = .scan) (hi : e.i < data.length) (hd : 1 ≤ e.d)
    (hdm : e.d + more = maxDist e.i) (hk : e.k = 0) (ho : (s.encAt (e.tried data more)).Reaches o) :
    (s.encAt e).Reaches o := by
  refine candidate_reaches hr hp hin e hc hi hd (by omega) hk ?_
  induction more generalizing e with
  | zero => rwa [EncRegs.measured_next_last data e hdm]
  | succ more ih =>
    have hlt : e.d < maxDist e.i := by omega
    obtain ⟨hcph, hpos, hdist, hzero⟩ := EncRegs.measured_next data e hlt
    have hscan : (e.measured data).nextCandidate.cph = .scan := hcph.trans hc
    have hin' : (e.measured data).nextCandidate.i < data.length := hpos ▸ hi
    have hd' : 1 ≤ (e.measured data).nextCandidate.d := by omega
    have hdm' : (e.measured data).nextCandidate.d + more = maxDist (e.measured data).nextCandidate.i := by
      rw [hpos, hdist]; omega
    refine candidate_reaches hr hp hin _ hscan hin' hd' (by omega) hzero (ih _ hscan hin' hd' hdm' hzero ?_)
    rwa [EncRegs.measured_next_tried data e hlt more]

/-- From POS, the registers are set and every candidate is tried (R161). -/
theorem search_reaches (e : EncRegs) (hc : e.cph = .pos) (hi : e.i < data.length)
    (ho : (s.encAt (e.searched data)).Reaches o) : (s.encAt e).Reaches o := by
  have hlt : ¬ data.length ≤ e.i := Nat.not_le_of_lt hi
  by_cases h1 : 1 ≤ e.i
  · have hmax : 1 ≤ maxDist e.i := le_min h1 (by decide)
    rw [← EncRegs.opened_tried data e hmax] at ho
    have hscan := candidates_reach hr hp hin (maxDist e.i - 1) e.opened rfl hi le_rfl
      (Nat.add_sub_cancel' hmax) rfl ho
    refine State.encAt_goesOn hr hp hscan ?_
    simp [tickCompressor, State.encAt, EncRegs.opened, hc, hin, hlt, h1]
  · rw [EncRegs.searched_of_zero data e (by omega)] at ho
    refine State.encAt_goesOn hr hp ho ?_
    simp [tickCompressor, State.encAt, EncRegs.opened, hc, hin, hlt, h1]

/-- One position is one turn of the loop of `compress` (R150, R155, R161). -/
theorem visit_reaches (e : EncRegs) (hc : e.cph = .pos) (hi : e.i < data.length)
    (ho : (s.encAt (e.visit data)).Reaches o) : (s.encAt e).Reaches o := by
  refine search_reaches hr hp hin e hc hi (State.encAt_goesOn hr hp ho ?_)
  have hread : memRead data e.i = some (byteAt data e.i) := memRead_eq_some data e.i hi
  cases hem : emitsRef (findMatch data e.i).1 (findMatch data e.i).2 with
  | true => simp [tickCompressor, State.encAt, EncRegs.searched, EncRegs.search, EncRegs.visit, EncRegs.emitRef, hem]
  | false =>
    simp [tickCompressor, State.encAt, EncRegs.searched, EncRegs.search, EncRegs.visit, EncRegs.emitLit, hem, hin, hread]

/-- The positions are the loop of `compress` (R150, R161). -/
theorem positions_reach (fuel : Nat) (e : EncRegs) (hc : e.cph = .pos) (hf : data.length ≤ e.i + fuel)
    (ho : (s.encAt { EncRegs.loop data fuel e with cph := .done }).Reaches o) : (s.encAt e).Reaches o := by
  have atEnd (e : EncRegs) (hc : e.cph = .pos) (hend : data.length ≤ e.i)
      (ho : (s.encAt { e with cph := .done }).Reaches o) : (s.encAt e).Reaches o := by
    refine State.encAt_goesOn hr hp ho ?_
    simp [tickCompressor, State.encAt, hc, hin, hend]
  induction fuel generalizing e with
  | zero => exact atEnd e hc hf ho
  | succ fuel ih =>
    simp only [EncRegs.loop] at ho
    by_cases hi : e.i < data.length
    · rw [if_pos hi] at ho
      have hadv := (EncRegs.visit_pays data e).1
      exact visit_reaches hr hp hin e hc hi (ih (e.visit data) (EncRegs.visit_cph data e) (by omega) ho)
    · rw [if_neg hi] at ho
      exact atEnd e hc (by omega) ho

/-- In DONE the stream is delivered (R159, R161). -/
theorem compressorDone_reaches (e : EncRegs) (hc : e.cph = .done) :
    (s.encAt e).Reaches
      (deliverBytes (s.mem.out ++ e.tok ++ be32 (adler32 data)) { s.encAt e with adler := adlerAfter data }) := by
  have ht : tickCompressor (s.encAt e)
      = deliverBytes (s.mem.out ++ e.tok ++ be32 (adler32 data)) { s.encAt e with adler := adlerAfter data } := by
    simp only [tickCompressor, State.encAt, hc, hin]
  rw [← ht, ← State.encAt_step hr hp]
  exact State.reaches_step _

end CompressorWalk

/-- The block as COMPRESS starts to walk, but for the encoder's registers (R161). -/
def State.compressing (s : State) : State :=
  { s with phase := .busy .compressor, mem := { s.mem with out := streamHeader } }

/-- Settles O58: the walk goes through the turns of the loop of `compress`, and delivers in DONE. -/
theorem compressorStepFormAgrees : Obligations.CompressorStepFormAgrees := by
  intro s sub rest data h
  refine h.reaches fun acc t u hr hm he hu => ?_
  have hd : acc.mem.input 0 = data := by rw [Memory.input, hm]; rfl
  rw [exec, execCompress, exec_next_accepted _ acc t rfl he]
  cases hu
  have hstream : streamHeader ++ (acc.enc.compressed data).tok ++ be32 (adler32 data) = compress data := by
    rw [EncRegs.compressed_tok, compress]
  have hdone := compressorDone_reaches (s := acc.compressing) hr rfl hd (acc.enc.compressed data) rfl
  rw [State.compressing, hstream] at hdone
  exact positions_reach (s := acc.compressing) hr rfl hd data.length acc.enc.start rfl (by omega) hdone

end Sys2Proof.Machine
end

section
/-! SUPPORT. The step form of the decompressor ends in the outcome of DECOMPRESS as one transition (R44, R190): one turn of the
token walk is a token step, or the steps of a `REF` copy, and the output stays within `BUF_CAP` because the walk's does. -/

namespace Sys2Proof.Machine

/-! ### The copy of a `REF` -/

/-- One more byte is copied after the bytes before it (R187). -/
theorem copyBytes_succ (out : Bytes) (dist k : Nat) :
    copyBytes out dist (k + 1) = copyBytes out dist k ++ [byteAt out (out.length - dist + k % dist)] := by
  simp [copyBytes, List.range_succ]

/-- A byte that was there before an append is still read there. -/
theorem byteAt_append_left (a b : Bytes) (i : Nat) (h : i < a.length) : byteAt (a ++ b) i = byteAt a i := by
  simp [byteAt, List.getElem?_append_left h]

/-- The output of a token walk only grows (R62). -/
theorem Walk.out_length_le_loop (T : Bytes) (fuel : Nat) (w : Walk) :
    w.out.length ≤ (Walk.loop T fuel w).1.out.length := by
  induction fuel generalizing w with
  | zero => exact le_rfl
  | succ fuel ih =>
    have grows (v : Walk) (hv : w.out.length ≤ v.out.length) : w.out.length ≤ (Walk.loop T fuel v).1.out.length :=
      hv.trans (ih v)
    simp only [Walk.loop]
    split
    · exact le_rfl
    split
    · exact grows _ (by simp)
    split
    · exact le_rfl
    split
    · exact grows _ (by simp)
    split
    · exact le_rfl
    split
    · exact grows _ (by simp)
    · exact le_rfl

/-! ### The walk -/

/-- The block as DECOMPRESS starts to walk, but for the decoder's registers and the output (R190). -/
def State.decompressing (s : State) : State := { s with phase := .busy .decompressor }

/-- A DECOMPRESS that gets past its header and is not refused ends as its walk does, within `BUF_CAP` (R78, R189). -/
theorem runDecompress_of_next {stream : Bytes} {s t : State} (hh : headerOk stream = true)
    (h : runDecompress stream s = .next t) :
    fits s.cfg.bufCap (walkRegion (tokenRegion stream) s.dec).1.out.length = true
      ∧ runDecompress stream s = endWalk stream s (walkRegion (tokenRegion stream) s.dec) := by
  cases hf : fits s.cfg.bufCap (walkRegion (tokenRegion stream) s.dec).1.out.length with
  | true => exact ⟨rfl, by simp [runDecompress, hh, hf]⟩
  | false => simp [runDecompress, hh, hf] at h

/-- What ends the walk does not see the phase. -/
theorem endWalk_decompressing (stream : Bytes) (s : State) (x : Walk × Status) :
    endWalk stream s.decompressing x = endWalk stream s x := by
  obtain ⟨w, e⟩ := x
  cases e <;> rfl

theorem State.afterWalk_goesOn {s : State} {w v : Walk} {o : Host.Outcome State Fault Refusal}
    (ho : (s.afterWalk v).Reaches o) (hfit : fits s.cfg.bufCap v.out.length = true)
    (ht : step (s.afterWalk w) = holdOutput (s.afterWalk v)) : (s.afterWalk w).Reaches o := by
  refine ho.of_step ?_
  rw [ht, holdOutput]
  exact if_pos hfit

section DecompressorWalk

variable {s : State} (hr : s.resetLine = false) (hp : s.phase = .busy .decompressor)
  {o : Host.Outcome State Fault Refusal}
include hr hp

theorem State.afterWalk_step (w : Walk) : step (s.afterWalk w) = tickDecompressor (s.afterWalk w) :=
  step_of_busy (s.afterWalk w) .decompressor hr hp

theorem State.afterWalk_step_run (w : Walk) (hd : w.regs.dph = .run) :
    step (s.afterWalk w) = stepRun (s.afterWalk w) := by
  rw [State.afterWalk_step hr hp, tickDecompressor]
  simp only [State.afterWalk_dec, hd]

theorem State.afterWalk_step_copy (w : Walk) (hd : w.regs.dph = .copy) :
    step (s.afterWalk w) = tickCopy (s.afterWalk w) := by
  rw [State.afterWalk_step hr hp, tickDecompressor]
  simp only [State.afterWalk_dec, hd]

theorem State.afterWalk_step_check (w : Walk) (hd : w.regs.dph = .check) :
    step (s.afterWalk w) = checkTrailer (s.mem.input 0) (s.afterWalk w) := by
  rw [State.afterWalk_step hr hp, tickDecompressor]
  simp only [State.afterWalk_dec, hd]
  rfl

/-- The copy of a validated `REF`, over what is left of it (R187, R190). -/
theorem copy_reaches (out : Bytes) (r : DecRegs) (hd : r.dph = .copy) (hL : r.L = out.length) (hd1 : 1 ≤ r.dist.toNat)
    (hdL : r.dist.toNat ≤ out.length) (m : Nat) (hk : r.k + m = r.n.toNat)
    (hfit : fits s.cfg.bufCap (out.length + r.n.toNat) = true)
    (ho : (s.afterWalk ⟨{ r with k := r.n.toNat, p := r.p + 4, dph := .run },
      out ++ copyBytes out r.dist.toNat r.n.toNat⟩).Reaches o) :
    (s.afterWalk ⟨r, out ++ copyBytes out r.dist.toNat r.k⟩).Reaches o := by
  induction m generalizing r with
  | zero =>
    have hend : r.k = r.n.toNat := hk
    rw [← hend] at ho
    refine ho.of_step ?_
    rw [State.afterWalk_step_copy hr hp _ hd]
    simp [tickCopy, State.afterWalk, ← hend]
  | succ m ih =>
    have hlt : r.k < r.n.toNat := by omega
    have hmod : r.k % r.dist.toNat < r.dist.toNat := Nat.mod_lt _ hd1
    have hread : memRead (out ++ copyBytes out r.dist.toNat r.k) (out.length - r.dist.toNat + r.k % r.dist.toNat)
        = some (byteAt out (out.length - r.dist.toNat + r.k % r.dist.toNat)) := by
      rw [memRead_eq_some _ _ (by rw [List.length_append]; omega), byteAt_append_left _ _ _ (by omega)]
    have hnext := ih { r with k := r.k + 1 } hd hL hd1 hdL (by simp only; omega) hfit ho
    refine State.afterWalk_goesOn hnext ?_ ?_
    · refine fits_mono _ ?_ hfit
      simp only [List.length_append, copyBytes_length]
      omega
    · rw [State.afterWalk_step_copy hr hp _ hd]
      simp [tickCopy, State.afterWalk, hlt, hL, hread, Memory.write, copyBytes_succ]

/-- A valid `REF` ends where its execution as a whole does, at every grain (R187, R190). -/
theorem ref_reaches (w : Walk) (hd : w.regs.dph = .run) (dist : BitVec 16) (n : Byte)
    (hv : refValid w.out.length dist n = true) (hfit : fits s.cfg.bufCap (w.fetchRef dist n).runRef.out.length = true)
    (hstep : step (s.afterWalk w) = runToken (.ref dist n) (s.afterWalk w))
    (ho : (s.afterWalk (w.fetchRef dist n).runRef).Reaches o) : (s.afterWalk w).Reaches o := by
  have hat : (s.afterWalk w).atToken = true := (State.atToken_iff _).mpr ⟨hp, hd⟩
  by_cases hg : s.grain = .micro
  · rw [runToken_ref_micro dist n (s.afterWalk w) hv hg] at hstep
    obtain ⟨hd0, hdL, _⟩ := (refValid_iff _ dist n).mp hv
    have hrun : (w.fetchRef dist n).runRef =
        ⟨{ (s.afterWalk w).latchRef dist n with k := n.toNat, p := w.regs.p + 4, dph := .run },
          w.out ++ copyBytes w.out dist.toNat n.toNat⟩ := by
      simp [Walk.runRef, Walk.fetchRef, State.latchRef, hd]
    rw [hrun] at ho hfit
    have hlen : fits s.cfg.bufCap (w.out.length + n.toNat) = true := by simpa using hfit
    have hcopy : (s.afterWalk ⟨(s.afterWalk w).latchRef dist n, w.out ++ copyBytes w.out dist.toNat 0⟩).Reaches o :=
      copy_reaches hr hp w.out ((s.afterWalk w).latchRef dist n) rfl rfl (Nat.pos_of_ne_zero hd0) hdL n.toNat
        (Nat.zero_add _) hlen ho
    have hstart : w.out ++ copyBytes w.out dist.toNat 0 = w.out := List.append_nil _
    rw [hstart] at hcopy
    exact hcopy.of_step hstep
  · rw [runToken_ref_whole dist n (s.afterWalk w) hat hv hg] at hstep
    exact State.afterWalk_goesOn ho hfit hstep

/-- The end of the token region, and the checksum check (R182, R188, R190). -/
theorem walkEnd_reaches (w : Walk) (hd : w.regs.dph = .run) (hend : s.region.length ≤ w.regs.p) :
    (s.afterWalk w).Reaches (endWalk (s.mem.input 0) s (w, .ok)) := by
  have hcheck := State.afterWalk_step_check hr hp ⟨{ w.regs with dph := .check }, w.out⟩ rfl
  have hlast := State.reaches_step (s.afterWalk ⟨{ w.regs with dph := .check }, w.out⟩)
  rw [hcheck] at hlast
  refine hlast.of_step ?_
  rw [State.afterWalk_step_run hr hp w hd, stepRun_of_end _ hend]
  rfl

/-- The token walk, turn by turn, with its output within `BUF_CAP` where it ends (R182-R188, R190). -/
theorem walk_reaches (fuel : Nat) (w : Walk) (hd : w.regs.dph = .run) (hf : s.region.length ≤ w.regs.p + fuel)
    (hfit : fits s.cfg.bufCap (Walk.loop s.region fuel w).1.out.length = true) :
    (s.afterWalk w).Reaches (endWalk (s.mem.input 0) s (Walk.loop s.region fuel w)) := by
  induction fuel generalizing w with
  | zero => exact walkEnd_reaches hr hp w hd hf
  | succ fuel ih =>
    have hat : (s.afterWalk w).atToken = true := (State.atToken_iff _).mpr ⟨hp, hd⟩
    have hrun := State.afterWalk_step_run hr hp w hd
    have truncated (e : DecodeReject) (hlt : w.regs.p < s.region.length)
        (he : decodeToken s.region w.regs.p = .error e) :
        (s.afterWalk w).Reaches (endWalk (s.mem.input 0) s (Walk.loop s.region (fuel + 1) w)) := by
      rw [Walk.loop_truncated _ fuel w e hlt he]
      have hstep := State.reaches_step (s.afterWalk w)
      rwa [hrun, stepRun_of_truncated (s.afterWalk w) e hlt he] at hstep
    have goesOn {v : Walk} (hl : Walk.loop s.region (fuel + 1) w = Walk.loop s.region fuel v)
        (hv : v.regs.dph = .run) (hpv : s.region.length ≤ v.regs.p + fuel)
        (ht : stepRun (s.afterWalk w) = holdOutput (s.afterWalk v)) :
        (s.afterWalk w).Reaches (endWalk (s.mem.input 0) s (Walk.loop s.region (fuel + 1) w)) := by
      rw [hl] at hfit ⊢
      exact State.afterWalk_goesOn (ih v hv hpv hfit) (fits_mono _ (Walk.out_length_le_loop _ _ v) hfit)
        (hrun.trans ht)
    obtain ⟨hend, _⟩ | ⟨hlt, hb, e⟩ | ⟨hlt, _, e⟩ | ⟨hlt, hb, hb', e⟩ | ⟨hlt, _, _, _, e⟩ | ⟨hlt, hb, hb', e⟩ :=
      decodeToken_cases s.region w.regs.p
    · rw [Walk.loop_of_end _ _ w hend]
      exact walkEnd_reaches hr hp w hd hend
    · refine goesOn (Walk.loop_lit _ fuel w hlt hb) hd (by simp only [Walk.put_p]; omega) ?_
      rw [stepRun_of_token (s.afterWalk w) _ _ hlt e, runToken_lit _ _ hat]
      rfl
    · exact truncated _ (by omega) e
    · refine goesOn (Walk.loop_litff _ fuel w hlt hb hb') hd (by simp only [Walk.put_p]; omega) ?_
      rw [stepRun_of_token (s.afterWalk w) _ _ (Nat.lt_of_succ_lt hlt) e, runToken_litff _ hat]
      rfl
    · exact truncated _ (by omega) e
    · have hin : w.regs.p < s.region.length := by omega
      have hstep := hrun.trans (stepRun_of_token (s.afterWalk w) _ _ hin e)
      cases hv : refValid w.out.length (rdLe16 s.region (w.regs.p + 1)) (byteAt s.region (w.regs.p + 3)) with
      | true =>
        rw [Walk.loop_ref_valid _ fuel w hlt hb hb' hv] at hfit ⊢
        exact ref_reaches hr hp w hd _ _ hv (fits_mono _ (Walk.out_length_le_loop _ _ _) hfit) hstep
          (ih _ hd (by simp only [Walk.runRef_p, Walk.fetchRef_p]; omega) hfit)
      | false =>
        rw [Walk.loop_ref_invalid _ fuel w hlt hb hb' hv]
        have hlast := State.reaches_step (s.afterWalk w)
        rwa [hstep, runToken_ref_of_invalid _ _ _ hat hv] at hlast

end DecompressorWalk

/-- Settles O59: the walk goes through the turns of the token walk of R189, and ends as it does. -/
theorem decompressorStepFormAgrees : Obligations.DecompressorStepFormAgrees := by
  intro s sub rest stream h
  refine h.reaches fun acc t u hr hm he hu => ?_
  have hd : acc.mem.input 0 = stream := by rw [Memory.input, hm]; rfl
  have hwhy := exec_next_accepted _ acc t rfl he
  rw [exec, execDecompress, hwhy] at he ⊢
  simp only [State.walkStart] at hu
  split at hu <;> cases hu
  case isTrue hhead =>
    obtain ⟨hfit, hend⟩ := runDecompress_of_next hhead he
    have hreg : acc.decompressing.region = tokenRegion stream := congrArg tokenRegion hd
    rw [walkRegion, ← hreg] at hfit hend
    have hwalk := walk_reaches (s := acc.decompressing) hr rfl acc.decompressing.region.length ⟨acc.dec.start, []⟩ rfl
      (Nat.le_add_left _ _) hfit
    rw [endWalk_decompressing] at hwalk
    rw [hend, ← hd]
    exact hwalk

end Sys2Proof.Machine
end

section
/-! SUPPORT. What an instruction and a step of a walk do to the buffers, said once for each: inputs are only read (R61), the output
is only appended to while the command goes on (R62) and held to `BUF_CAP` (R78), and a fault needs a state outside the invariant. -/

namespace Sys2Proof.Machine

/-! ### Outcomes -/

/-- What is claimed of an outcome: a next state meets `P`, and it is a fault only where `F` holds. -/
def Meets (F : Prop) (P : State → Prop) : Host.Outcome State Fault Refusal → Prop
  | .next t => P t
  | .fault _ => F
  | .refused _ => True

theorem Meets.of_next {F : Prop} {P : State → Prop} {o : Host.Outcome State Fault Refusal} {t : State}
    (h : Meets F P o) (ho : o = .next t) : P t := by
  rw [ho] at h; exact h

theorem Meets.of_fault {F : Prop} {P : State → Prop} {o : Host.Outcome State Fault Refusal} {r : Fault}
    (h : Meets F P o) (ho : o = .fault r) : F := by
  rw [ho] at h; exact h

section Shared

variable {F : Prop} {P : State → Prop}

theorem meets_holdOutput {s : State} (h : fits s.cfg.bufCap s.mem.out.length = true → P s) :
    Meets F P (holdOutput s) := by
  obtain ⟨hf, e⟩ | ⟨_, e⟩ := holdOutput_cases s <;> rw [e]
  · exact h hf
  · trivial

theorem meets_deliverBytes {s : State} {b : Bytes} (h : fits s.cfg.bufCap b.length = true → P (s.delivered b)) :
    Meets F P (deliverBytes b s) := by
  obtain ⟨⟨hf, _⟩, e⟩ | ⟨_, e⟩ | ⟨_, _, e⟩ := deliverBytes_cases b s <;> rw [e]
  · exact h hf
  all_goals trivial

theorem meets_checkTrailer {s : State} (stream : Bytes)
    (hok : fits s.cfg.bufCap s.mem.out.length = true →
      P (State.delivered { s with adler := adlerAfter s.mem.out } s.mem.out))
    (hbad : P (State.failed { s with adler := adlerAfter s.mem.out } .checksumMismatch)) :
    Meets F P (checkTrailer stream s) := by
  obtain ⟨_, e⟩ | ⟨_, e⟩ := checkTrailer_cases stream s <;> rw [e]
  · exact meets_deliverBytes hok
  · exact hbad

end Shared

/-! ### A token where one is walked -/

section Tokens

variable {s : State} (hat : s.atToken = true)
include hat

theorem exec_lit_of_atToken (b : Byte) : exec (.lit b) s = holdOutput (s.afterWalk (s.walk.put [b] 1)) := by
  simp [exec, execLit, hat]

theorem exec_litff_of_atToken : exec .litff s = holdOutput (s.afterWalk (s.walk.put [Config.esc] 2)) := by
  simp [exec, execLitff, hat]

theorem exec_ref_of_valid {dist : BitVec 16} {n : Byte} (hv : refValid s.mem.out.length dist n = true) :
    exec (.ref dist n) s = holdOutput (s.afterWalk (s.walk.fetchRef dist n).runRef) := by
  simp [exec, execRef, hat, hv]

theorem exec_ref_of_invalid {dist : BitVec 16} {n : Byte} (hv : refValid s.mem.out.length dist n = false) :
    exec (.ref dist n) s = .next ((s.afterWalk (s.walk.fetchRef dist n)).failed .invalidBackReference) := by
  simp [exec, execRef, hat, hv, raise_eq]

end Tokens

/-! ### One instruction -/

/-- From `s` to `t` no input buffer is written (R61), and the output buffer stays within `BUF_CAP` (R78). -/
structure State.HoldsBuffers (s t : State) : Prop where
  inputs : t.mem.inputs = s.mem.inputs
  output : fits s.cfg.bufCap s.mem.out.length = true → fits s.cfg.bufCap t.mem.out.length = true

theorem holdsBuffers_failed (s u : State) (e : Status) (hm : u.mem.inputs = s.mem.inputs) :
    s.HoldsBuffers (u.failed e) := ⟨hm, fun _ => fits_zero _⟩

/-- A command that delivers bytes from a state with other registers holds the buffers. -/
theorem meets_deliverBytes_holdsBuffers {s u : State} {b : Bytes} (hc : u.cfg = s.cfg)
    (hm : u.mem.inputs = s.mem.inputs) : Meets False s.HoldsBuffers (deliverBytes b u) :=
  meets_deliverBytes fun hf => ⟨hm, fun _ => hc ▸ hf⟩

theorem meets_holdOutput_holdsBuffers {s u : State} (hc : u.cfg = s.cfg) (hm : u.mem.inputs = s.mem.inputs) :
    Meets False s.HoldsBuffers (holdOutput u) :=
  meets_holdOutput fun hf => ⟨hm, fun _ => hc ▸ hf⟩

theorem runDecompress_holdsBuffers (stream : Bytes) (s : State) :
    Meets False s.HoldsBuffers (runDecompress stream s) := by
  obtain ⟨_, e⟩ | ⟨_, w, _, _, e⟩ | ⟨_, w, st, _, _, _, e⟩ | ⟨_, _, e⟩ := runDecompress_cases stream s <;> rw [e]
  · exact holdsBuffers_failed s s _ rfl
  · exact meets_checkTrailer stream (fun hf => ⟨rfl, fun _ => hf⟩) (holdsBuffers_failed s _ _ rfl)
  · exact holdsBuffers_failed s (s.afterWalk w) st rfl
  · trivial

theorem exec_token_holdsBuffers (i : Instr) (s : State) (hi : i.isToken = true) :
    Meets False s.HoldsBuffers (exec i s) := by
  cases hat : s.atToken with
  | false => rw [exec_of_not_atToken i s hi hat]; trivial
  | true =>
    cases i with
    | lit b => rw [exec_lit_of_atToken hat]; exact meets_holdOutput_holdsBuffers rfl rfl
    | litff => rw [exec_litff_of_atToken hat]; exact meets_holdOutput_holdsBuffers rfl rfl
    | ref dist n =>
      cases hv : refValid s.mem.out.length dist n with
      | true => rw [exec_ref_of_valid hat hv]; exact meets_holdOutput_holdsBuffers rfl rfl
      | false => rw [exec_ref_of_invalid hat hv]; exact holdsBuffers_failed s _ _ rfl
    | _ => cases hi

theorem exec_command_holdsBuffers (i : Instr) (s : State) (hi : i.isToken = false) :
    Meets False s.HoldsBuffers (exec i s) := by
  cases hw : whyRefused i s with
  | some r => rw [exec_of_whyRefused i s r hi hw]; trivial
  | none =>
    cases i with
    | lit | litff | ref => cases hi
    | crc32 => simp only [exec, execCrc32, hw]; exact ⟨rfl, id⟩
    | adler32 => simp only [exec, execAdler32, hw]; exact ⟨rfl, id⟩
    | filter => simp only [exec, execFilter, hw]; exact meets_deliverBytes_holdsBuffers rfl rfl
    | compress => simp only [exec, execCompress, hw]; exact meets_deliverBytes_holdsBuffers rfl rfl
    | decompress stream => simp only [exec, execDecompress, hw]; exact runDecompress_holdsBuffers stream s
    | writeChunk => simp only [exec, execWriteChunk, hw]; exact meets_deliverBytes_holdsBuffers rfl rfl
    | makeIhdr => simp only [exec, execMakeIhdr, hw]; exact meets_deliverBytes_holdsBuffers rfl rfl
    | assemble => simp only [exec, execAssemble, hw]; exact meets_deliverBytes_holdsBuffers rfl rfl
    | encodePng width height px =>
      simp only [exec, execEncodePng, hw]
      split
      · trivial
      · exact meets_deliverBytes_holdsBuffers rfl rfl

/-- No instruction faults, and one that answers a next state writes no input and holds the output to `BUF_CAP`. -/
theorem exec_holdsBuffers (i : Instr) (s : State) : Meets False s.HoldsBuffers (exec i s) := by
  cases hi : i.isToken with
  | true => exact exec_token_holdsBuffers i s hi
  | false => exact exec_command_holdsBuffers i s hi

/-! ### One step of a walk -/

/-- From `s` to `t` no input buffer is written (R61), and while the command goes on the output is only appended to (R62). -/
structure State.Grows (s t : State) : Prop where
  inputs : t.mem.inputs = s.mem.inputs
  output : t.phase ≠ .idle → s.mem.out <+: t.mem.out

/-- A step that leaves the buffers as they are. -/
theorem State.grows_of_mem_eq {s t : State} (h : t.mem = s.mem) : s.Grows t := ⟨by rw [h], fun _ => by rw [h]⟩

/-- A step that appends to the output. -/
theorem State.grows_of_append {s t : State} {v : Bytes} (h : t.mem = s.mem.write v) : s.Grows t :=
  ⟨by rw [h]; rfl, fun _ => by rw [h]; exact ⟨v, rfl⟩⟩

/-- A step that ends the command. -/
theorem State.grows_of_idle {s t : State} (hm : t.mem.inputs = s.mem.inputs) (hp : t.phase = .idle) : s.Grows t :=
  ⟨hm, fun h => absurd hp h⟩

theorem tickCrc_grows (s : State) : Meets (¬ s.Inv) s.Grows (tickCrc s) := by
  unfold tickCrc
  split
  · exact State.grows_of_mem_eq rfl
  · exact State.grows_of_idle rfl rfl

theorem tickAdler_grows (s : State) : Meets (¬ s.Inv) s.Grows (tickAdler s) := by
  unfold tickAdler
  split
  · exact State.grows_of_mem_eq rfl
  · exact State.grows_of_idle rfl rfl

/-- Inside its image the filter has a byte to read (R61, R140). -/
theorem FilInv.filterRead_ne_none {pixels : Bytes} {f : FilterRegs} (h : FilInv pixels f) (hb : f.fph = .byte)
    (hx : f.x < rowBytes f.width) : filterRead pixels f ≠ none := by
  have hlen : (f.r + 1) * rowBytes f.width ≤ pixels.length := h.image ▸ Nat.mul_le_mul_right _ (h.inRow hb)
  simp [filterRead_eq pixels f hlen hx]

theorem tickFilter_grows (s : State) (hp : s.phase = .busy .filter) : Meets (¬ s.Inv) s.Grows (tickFilter s) := by
  unfold tickFilter
  dsimp only
  split
  case h_1 =>
    split
    · exact meets_deliverBytes fun _ => State.grows_of_idle rfl rfl
    · exact meets_holdOutput fun _ => State.grows_of_append rfl
  case h_2 hb =>
    split
    case isTrue hx =>
      split
      case h_1 => exact meets_holdOutput fun _ => State.grows_of_append rfl
      case h_2 hnone => exact fun h => (h.filterWalk hp).filterRead_ne_none hb hx hnone
    case isFalse => exact State.grows_of_mem_eq rfl

/-- In SCAN both bytes compared are inside the data: the lookahead below the limit, the window before `i` (R63, R152). -/
theorem EncInv.scan_reads {data : Bytes} {e : EncRegs} (h : EncInv data e) (hc : e.cph = .scan)
    (hk : e.k < matchLimit data e.i) : e.i + e.k < data.length ∧ e.i - e.d + e.k % e.d < data.length := by
  obtain ⟨hi, hd1, hdm, _⟩ := h.scan hc
  have hlim := matchLimit_le data e.i
  have hdi := maxDist_le e.i
  have hmod : e.k % e.d < e.d := Nat.mod_lt _ hd1
  omega

theorem tickCompressor_grows (s : State) (hp : s.phase = .busy .compressor) :
    Meets (¬ s.Inv) s.Grows (tickCompressor s) := by
  unfold tickCompressor
  dsimp only
  split
  case h_1 => split <;> exact State.grows_of_mem_eq rfl
  case h_2 hscan =>
    split
    case isTrue hk =>
      split
      case h_1 => split <;> exact State.grows_of_mem_eq rfl
      case h_2 hnone =>
        intro h
        obtain ⟨hx, hy⟩ := (h.encWalk hp).scan_reads hscan hk
        exact hnone _ _ (memRead_eq_some _ _ hx) (memRead_eq_some _ _ hy)
    case isFalse => exact State.grows_of_mem_eq rfl
  case h_3 hdecide =>
    split
    case isTrue => exact State.grows_of_mem_eq rfl
    case isFalse =>
      split
      case h_1 => exact State.grows_of_mem_eq rfl
      case h_2 hnone =>
        intro h
        obtain ⟨hi, _⟩ := (h.encWalk hp).decide hdecide
        exact absurd ((memRead_eq_none_iff _ _).mp hnone) (Nat.not_le_of_lt hi)
  case h_4 => exact meets_deliverBytes fun _ => State.grows_of_idle rfl rfl

/-- In COPY(k) the byte copied is inside the output (R64, R187). -/
theorem DecInv.copy_reads {T out : Bytes} {r : DecRegs} (h : DecInv T out r) (hd : r.dph = .copy) :
    r.L - r.dist.toNat + r.k % r.dist.toNat < out.length := by
  obtain ⟨hd1, hdL, _, hlen, _⟩ := h.copy hd
  have hmod : r.k % r.dist.toNat < r.dist.toNat := Nat.mod_lt _ hd1
  omega

theorem tickCopy_grows (s : State) (hp : s.phase = .busy .decompressor) (hd : s.dec.dph = .copy) :
    Meets (¬ s.Inv) s.Grows (tickCopy s) := by
  unfold tickCopy
  dsimp only
  split
  case isTrue =>
    split
    case h_1 => exact meets_holdOutput fun _ => State.grows_of_append rfl
    case h_2 hnone =>
      exact fun h => absurd ((memRead_eq_none_iff _ _).mp hnone) (Nat.not_le_of_lt ((h.decWalk hp).copy_reads hd))
  case isFalse => exact State.grows_of_mem_eq rfl

theorem runToken_ref_grows (s : State) (dist : BitVec 16) (n : Byte) (hat : s.atToken = true) :
    Meets (¬ s.Inv) s.Grows (runToken (.ref dist n) s) := by
  cases hv : refValid s.mem.out.length dist n with
  | false =>
    rw [runToken_ref_of_invalid dist n s hat hv]
    exact State.grows_of_idle rfl rfl
  | true =>
    by_cases hg : s.grain = .micro
    · rw [runToken_ref_micro dist n s hv hg]
      exact State.grows_of_mem_eq rfl
    · rw [runToken_ref_whole dist n s hat hv hg]
      exact meets_holdOutput fun _ => State.grows_of_append rfl

theorem stepRun_grows (s : State) (hat : s.atToken = true) : Meets (¬ s.Inv) s.Grows (stepRun s) := by
  have truncated (e : DecodeReject) (hlt : s.dec.p < s.region.length)
      (he : decodeToken s.region s.dec.p = .error e) : Meets (¬ s.Inv) s.Grows (stepRun s) := by
    rw [stepRun_of_truncated s e hlt he]
    exact State.grows_of_idle rfl rfl
  obtain ⟨hend, _⟩ | ⟨hin, _, e⟩ | ⟨hin, _, e⟩ | ⟨hin, _, _, e⟩ | ⟨hin, _, _, _, e⟩ | ⟨hin, _, _, e⟩ :=
    decodeToken_cases s.region s.dec.p
  · rw [stepRun_of_end s hend]
    exact State.grows_of_mem_eq rfl
  · rw [stepRun_of_token s _ _ hin e, runToken_lit _ s hat]
    exact meets_holdOutput fun _ => State.grows_of_append rfl
  · exact truncated _ (by omega) e
  · rw [stepRun_of_token s _ _ (by omega) e, runToken_litff s hat]
    exact meets_holdOutput fun _ => State.grows_of_append rfl
  · exact truncated _ (by omega) e
  · rw [stepRun_of_token s _ _ (by omega) e]
    exact runToken_ref_grows s _ _ hat

/-- A step of a walk writes no input, only appends to the output while the command goes on, and faults only outside the
invariant. -/
theorem stepBusy_grows (s : State) (w : Walker) (hp : s.phase = .busy w) :
    Meets (¬ s.Inv) s.Grows (stepBusy w s) := by
  cases w with
  | crc => exact tickCrc_grows s
  | adler => exact tickAdler_grows s
  | filter => exact tickFilter_grows s hp
  | compressor => exact tickCompressor_grows s hp
  | decompressor =>
    simp only [stepBusy, tickDecompressor]
    cases hd : s.dec.dph with
    | run => exact stepRun_grows s (s.atToken_iff.mpr ⟨hp, hd⟩)
    | copy => exact tickCopy_grows s hp hd
    | check =>
      exact meets_checkTrailer _ (fun _ => State.grows_of_idle rfl rfl) (State.grows_of_idle rfl rfl)

/-- Settles O50: one instruction, and one step of a walk. -/
theorem inputsAreReadOnlyAndOutputAppended : Obligations.InputsAreReadOnlyAndOutputAppended := by
  refine ⟨fun i s t h => ((exec_holdsBuffers i s).of_next h).inputs, fun s t w hr hp h => ?_⟩
  rw [step_of_busy s w hr hp] at h
  obtain ⟨hin, hout⟩ := (stepBusy_grows s w hp).of_next h
  exact ⟨hin, hout⟩

/-! ### No fault -/

theorem exec_ne_fault (i : Instr) (s : State) (r : Fault) : exec i s ≠ .fault r :=
  fun h => (exec_holdsBuffers i s).of_fault h

/-- Taking a command up never faults, at any grain. -/
theorem runCommand_ne_fault (i : Instr) (s : State) (r : Fault) : runCommand i s ≠ .fault r := by
  by_cases hg : s.grain = .command
  · rw [runCommand_of_command i s hg]
    exact exec_ne_fault i s r
  · rw [runCommand_of_stepForm i s hg]
    obtain e | ⟨_, _, _, _, e⟩ := startCommand_cases i s <;> rw [e]
    · exact exec_ne_fault i s r
    · exact nofun

theorem stepIdle_ne_fault (s : State) (r : Fault) : stepIdle s ≠ .fault r := by
  cases hi : s.issue with
  | nil => rw [stepIdle_nil s hi]; exact nofun
  | cons sub rest =>
    cases hd : decodeCommand sub.desc with
    | error e => rw [stepIdle_undecodable s sub rest e hi hd]; exact nofun
    | ok i => rw [stepIdle_presented s sub rest i hi hd]; exact runCommand_ne_fault i _ r

/-- Settles O55: neither a reset nor taking a command up faults, and a step of a walk faults only outside the invariant. -/
theorem invariantStatesNeverFault : Obligations.InvariantStatesNeverFault := by
  intro s r h
  cases hr : s.resetLine with
  | true => rw [step_of_resetLine s hr]; exact nofun
  | false =>
    cases hp : s.phase with
    | idle => rw [step_of_idle s hr hp]; exact stepIdle_ne_fault s r
    | busy w =>
      rw [step_of_busy s w hr hp]
      exact fun hf => (stepBusy_grows s w hp).of_fault hf h

/-! ### Capacity and overlap -/

theorem mem_byteOperands {b : Bytes} {ops : List Operand} (h : Operand.bytes b ∈ ops) : b ∈ byteOperands ops := by
  induction ops with
  | nil => cases h
  | cons op ops ih =>
    obtain heq | htail := List.mem_cons.mp h
    · rw [← heq]; exact List.mem_cons_self
    · cases op with
      | bytes c => exact List.mem_cons_of_mem _ (ih htail)
      | u32 v => exact ih htail

/-- A command for which the block is not ready is refused (R76, R78, R229). -/
theorem exec_refused_of_not_ready (i : Instr) (s : State) (hi : i.isToken = false) (h : ¬ s.ready (buffersOf i)) :
    ∃ r, exec i s = .refused r := by
  cases hw : whyRefused i s with
  | none => exact absurd ((whyRefused_eq_none_iff i s).mp hw).1 h
  | some r => exact ⟨r, exec_of_whyRefused i s r hi hw⟩

theorem holdOutput_of_over {s : State} (h : fits s.cfg.bufCap s.mem.out.length = false) :
    holdOutput s = .refused .overCapacity := by
  simp [holdOutput, h]

/-- The output of a stream does not depend on the registers its walk starts from (R251). -/
theorem walkRegion_out (stream : Bytes) (r : DecRegs) :
    (walkRegion (tokenRegion stream) r).1.out = decodedOutput stream := (walkRegion_congr _ r _).1

/-- A DECOMPRESS whose output passes `BUF_CAP` is refused (R78, log 4). -/
theorem exec_decompress_refused_of_over {s : State} {stream : Bytes} (hh : headerOk stream = true)
    (hover : fits s.cfg.bufCap (decodedOutput stream).length = false) :
    ∃ r, exec (.decompress stream) s = .refused r := by
  cases hw : whyRefused (.decompress stream) s with
  | some r => exact ⟨r, exec_of_whyRefused _ s r rfl hw⟩
  | none =>
    refine ⟨.overCapacity, ?_⟩
    simp [exec, execDecompress, hw, runDecompress, hh, walkRegion_out, hover]

/-- Settles O49, clause by clause: readiness, the hold on the output at an append and at the end of a walk, and the capacity that
every instruction keeps. -/
theorem overlapAndOverCapacityAreRefused : Obligations.OverlapAndOverCapacityAreRefused := by
  refine ⟨fun i s hi hbad => ?_, fun s b hat hover => ?_, fun s dist n hat hd1 hdL hn hover => ?_,
    fun s stream hh hover => exec_decompress_refused_of_over hh hover,
    fun i s t h => ((exec_holdsBuffers i s).of_next h).output⟩
  · refine exec_refused_of_not_ready i s hi fun ⟨_, hfree, hfits⟩ => ?_
    obtain hover | ⟨d, b, he, hb, hover⟩ := hbad
    · rw [hfree] at hover; cases hover
    · have hmem : b ∈ buffersOf i := by rw [buffersOf, he]; exact mem_byteOperands hb
      rw [hfits b hmem] at hover; cases hover
  · rw [exec_lit_of_atToken hat, exec_litff_of_atToken hat]
    exact ⟨holdOutput_of_over (by simpa using hover), holdOutput_of_over (by simpa using hover)⟩
  · have hv : refValid s.mem.out.length dist n = true := (refValid_iff _ dist n).mpr ⟨by omega, hdL, by omega⟩
    rw [exec_ref_of_valid hat hv]
    exact holdOutput_of_over (by simpa using hover)

end Sys2Proof.Machine
end

section
/-! SUPPORT. The response of `decompress` by how its walk ends, from any registers (R188, R189, R251), and DECOMPRESS as one
transition. -/

namespace Sys2Proof.Machine

/-! ### The response by the end of the walk -/

theorem decompress_of_badHeader {stream : Bytes} (hh : headerOk stream = false) :
    decompress stream = ⟨.malformedHeader, .empty⟩ := by
  simp [decompress, hh]

section WalkEnd

variable {stream : Bytes} {r : DecRegs} {w : Walk} {e : Status} (hh : headerOk stream = true)

/-- The walk from reset's registers, which `decompress` names, ends as the walk from any others. -/
theorem walkRegion_reset_of_walk (hw : walkRegion (tokenRegion stream) r = (w, e)) :
    ∃ v, walkRegion (tokenRegion stream) State.reset.dec = (v, e) ∧ v.out = w.out := by
  obtain ⟨hout, hstatus⟩ := walkRegion_congr (tokenRegion stream) State.reset.dec r
  rw [hw] at hout hstatus
  exact ⟨_, Prod.ext rfl hstatus, hout⟩

theorem decodedOutput_of_walk (hw : walkRegion (tokenRegion stream) r = (w, e)) : decodedOutput stream = w.out := by
  rw [← walkRegion_out stream r, hw]

include hh

theorem decompress_of_failedWalk (hw : walkRegion (tokenRegion stream) r = (w, e)) (he : e ≠ .ok) :
    decompress stream = ⟨e, .empty⟩ := by
  obtain ⟨v, hv, _⟩ := walkRegion_reset_of_walk hw
  cases e with
  | ok => exact absurd rfl he
  | _ => simp [decompress, hh, hv]

theorem decompress_of_trailer (hw : walkRegion (tokenRegion stream) r = (w, .ok))
    (ha : adler32 w.out = trailer stream) : decompress stream = ⟨.ok, .bytes w.out⟩ := by
  obtain ⟨v, hv, hout⟩ := walkRegion_reset_of_walk hw
  simp [decompress, hh, hv, hout, ha]

theorem decompress_of_wrongTrailer (hw : walkRegion (tokenRegion stream) r = (w, .ok))
    (ha : adler32 w.out ≠ trailer stream) : decompress stream = ⟨.checksumMismatch, .empty⟩ := by
  obtain ⟨v, hv, hout⟩ := walkRegion_reset_of_walk hw
  simp [decompress, hh, hv, hout, ha]

end WalkEnd

/-- The token walk never reaches the checksum, so it does not end with `ChecksumMismatch` (R228). -/
theorem Walk.loop_status_ne_checksumMismatch (T : Bytes) (fuel : Nat) (w : Walk) :
    (Walk.loop T fuel w).2 ≠ .checksumMismatch := by
  induction fuel generalizing w with
  | zero => exact nofun
  | succ fuel ih =>
    simp only [Walk.loop]
    split
    · exact nofun
    split
    · exact ih _
    split
    · exact nofun
    split
    · exact ih _
    split
    · exact nofun
    split
    · exact ih _
    · exact nofun

/-! ### DECOMPRESS as one transition -/

theorem exec_decompress_of_ready {s : State} {stream : Bytes} (h : s.ready [stream]) :
    exec (.decompress stream) s = runDecompress stream s := by
  have hw : whyRefused (.decompress stream) s = none := (whyRefused_eq_none_iff _ s).mpr ⟨h, rfl⟩
  simp only [exec, execDecompress, hw]

theorem walkRegion_status_ne_checksumMismatch (T : Bytes) (r : DecRegs) : (walkRegion T r).2 ≠ .checksumMismatch :=
  Walk.loop_status_ne_checksumMismatch T _ _

/-- The block when DECOMPRESS has completed: the decoder's and the Adler registers, the output and one response are new. -/
def State.answered (s : State) (q : DecRegs) (a : AdlerRegs) (out : Bytes) (r : Response) : State :=
  State.complete { s with dec := q, adler := a, mem := { s.mem with out := out } } r

/-- DECOMPRESS completes where its output fits, by how it ends: a bad header, a trailer that matches or does not, or a token that
fails (R228). -/
theorem runDecompress_answers {s : State} {stream : Bytes}
    (hcap : headerOk stream = true → fits s.cfg.bufCap (decodedOutput stream).length = true)
    (hroom : ∀ b, decompress stream = ⟨.ok, .bytes b⟩ → fits s.storage.room b.length = true) :
    ∃ q a out, runDecompress stream s = .next (s.answered q a out (decompress stream))
      ∧ (∀ b, decompress stream = ⟨.ok, .bytes b⟩ → out = b ∧ a = adlerAfter b)
      ∧ ((decompress stream).status = .checksumMismatch → a = adlerAfter (decodedOutput stream))
      ∧ ((decompress stream).status ≠ .ok → (decompress stream).status ≠ .checksumMismatch → a = s.adler) := by
  obtain ⟨hh, e⟩ | ⟨hh, w, hw, hfit, e⟩ | ⟨hh, w, st, hst, hw, _, e⟩ | ⟨hh, hover, _⟩ := runDecompress_cases stream s
  · rw [e, decompress_of_badHeader hh]
    exact ⟨s.dec, s.adler, [], rfl, by simp, by simp, by simp⟩
  · obtain ⟨ha, e'⟩ | ⟨ha, e'⟩ := checkTrailer_cases stream (s.afterWalk ⟨{ w.regs with dph := .check }, w.out⟩)
    · have hd := decompress_of_trailer hh hw ha
      rw [e, hd]
      exact ⟨_, adlerAfter w.out, w.out, e'.trans (deliverBytes_next _ _ ⟨hfit, hroom _ hd⟩), by simp, by simp, by simp⟩
    · rw [e, e', decompress_of_wrongTrailer hh hw ha, decodedOutput_of_walk hw]
      exact ⟨_, adlerAfter w.out, [], rfl, by simp, by simp, by simp⟩
  · have hne : st ≠ .checksumMismatch := by
      simpa [hw] using walkRegion_status_ne_checksumMismatch (tokenRegion stream) s.dec
    rw [e, decompress_of_failedWalk hh hw hst]
    exact ⟨w.regs, s.adler, [], rfl, by simp, by simp [hne], by simp⟩
  · rw [walkRegion_out, hcap hh] at hover
    cases hover

/-- Settles O31: DECOMPRESS answers, and what it answers with leaves the rest of the state as it was. -/
theorem decompressCompletes : Obligations.DecompressCompletes := by
  intro s stream hready hcap hroom
  obtain ⟨q, a, out, e, hok, hmismatch, herror⟩ := runDecompress_answers hcap hroom
  rw [exec_decompress_of_ready hready]
  exact ⟨_, e, rfl, rfl, rfl, rfl, rfl, rfl, rfl, rfl, rfl, rfl, rfl, hok, hmismatch, herror⟩

end Sys2Proof.Machine
end

section
/-! SUPPORT. Buffers and multi-byte fields by position (R8-R11), and the two layers of encoding against their decoders
(R82-R85, R100, R101). -/

namespace Sys2Proof.Machine

/-! ### Bytes by position -/

/-- Inside a longer sequence, the bytes of a part are read from where it stands. -/
theorem byteAt_middle (pre mid post : Bytes) (k : Nat) (h : k < mid.length) :
    byteAt (pre ++ (mid ++ post)) (pre.length + k) = byteAt mid k := by
  simp [byteAt, List.getElem?_append_right, List.getElem?_append_left h]

/-- A slice is the byte at its start and the slice after it. -/
theorem slice_succ (s : Bytes) (p n : Nat) (h : p < s.length) :
    slice s p (p + (n + 1)) = byteAt s p :: slice s (p + 1) (p + 1 + n) := by
  simp only [slice, byteAt, Nat.add_sub_cancel_left]
  rw [List.drop_eq_getElem_cons h, List.take_succ_cons, List.getD_eq_getElem _ _ h]

@[simp] theorem slice_self (s : Bytes) (p : Nat) : slice s p p = [] := by simp [slice]

/-- A slice that stands between two known parts. -/
theorem slice_middle (pre mid post : Bytes) (a b : Nat) (ha : pre.length = a) (hb : a + mid.length = b) :
    slice (pre ++ (mid ++ post)) a b = mid := by
  subst ha hb
  simp [slice]

/-! ### Little- and big-endian fields -/

/-- Two bytes read as a field are written back as they were (R10). -/
theorem le16_rdLe16 (s : Bytes) (i : Nat) : le16 (rdLe16 s i) = [byteAt s i, byteAt s (i + 1)] := by
  have hlow : (rdLe16 s i).extractLsb' 0 8 = byteAt s i := by
    ext j hj
    grind [rdLe16]
  have hhigh : (rdLe16 s i).extractLsb' 8 8 = byteAt s (i + 1) := by
    ext j hj
    grind [rdLe16]
  rw [le16, hlow, hhigh]

/-- A 16-bit field is read back as it was written: each bit of it stands in one of the two bytes (R10). -/
theorem rdLe16_le16 (v : BitVec 16) : rdLe16 (le16 v) 0 = v := by
  ext j hj
  grind [rdLe16, le16, byteAt]

/-- A 32-bit field is read back as it was written: each bit of it stands in one of the four bytes (R10). -/
theorem rdBe32_be32 (v : U32) : rdBe32 (be32 v) 0 = v := by
  ext j hj
  grind [rdBe32, be32, byteAt]

theorem rdLe16_middle (pre mid post : Bytes) (k : Nat) (h : k + 1 < mid.length) :
    rdLe16 (pre ++ (mid ++ post)) (pre.length + k) = rdLe16 mid k := by
  rw [rdLe16, rdLe16, Nat.add_assoc, byteAt_middle _ _ _ _ h, byteAt_middle _ _ _ _ (Nat.lt_of_succ_lt h)]

theorem rdBe32_append (pre post : Bytes) (v : U32) : rdBe32 (pre ++ (be32 v ++ post)) pre.length = v := by
  have hbyte (k : Nat) (h : k < 4) := byteAt_middle pre (be32 v) post k h
  rw [rdBe32, hbyte 1 (by decide), hbyte 2 (by decide), hbyte 3 (by decide), show pre.length = pre.length + 0 from rfl,
    hbyte 0 (by decide)]
  exact rdBe32_be32 v

theorem be32_injective : Function.Injective be32 :=
  Function.LeftInverse.injective (g := fun s => rdBe32 s 0) rdBe32_be32

/-! ### Tokens -/

/-- The low byte of a distance is the escape exactly when R84 excludes it. -/
theorem low_byte_eq_esc_iff (dist : BitVec 16) : dist.extractLsb' 0 8 = Config.esc ↔ dist.toNat % 256 = 255 := by
  rw [← BitVec.toNat_inj]
  simp [Config.esc]

section TokenAt

variable {T : Bytes} {p : Nat}

theorem decodeToken_lit (h : p < T.length) (hb : byteAt T p ≠ Config.esc) :
    decodeToken T p = .ok (.lit (byteAt T p), 1) := by
  simp [decodeToken, Nat.not_le_of_lt h, hb]

theorem decodeToken_litff (h : p + 1 < T.length) (hb : byteAt T p = Config.esc) (hb' : byteAt T (p + 1) = Config.esc) :
    decodeToken T p = .ok (.litff, 2) := by
  simp [decodeToken, Nat.not_le_of_lt h, Nat.not_le_of_lt (Nat.lt_of_succ_lt h), hb, hb']

theorem decodeToken_ref (h : p + 3 < T.length) (hb : byteAt T p = Config.esc) (hb' : byteAt T (p + 1) ≠ Config.esc) :
    decodeToken T p = .ok (.ref (rdLe16 T (p + 1)) (byteAt T (p + 3)), 4) := by
  have h0 : ¬ T.length ≤ p := by omega
  have h1 : ¬ T.length ≤ p + 1 := by omega
  have h4 : ¬ T.length - p < 4 := by omega
  simp [decodeToken, h0, h1, h4, hb, hb']

end TokenAt

/-- A well-formed token is decoded wherever its bytes stand in a token region (R82-R85). -/
theorem decodeToken_encode (i : Instr) (pre bytes post : Bytes) (hwf : i.wf = true) (he : encode i = .token bytes) :
    decodeToken (pre ++ (bytes ++ post)) pre.length = .ok (i, bytes.length) := by
  have hbyte (k : Nat) (h : k < bytes.length) := byteAt_middle pre bytes post k h
  have hlt (k : Nat) (h : k < bytes.length) : pre.length + k < (pre ++ (bytes ++ post)).length := by
    simp only [List.length_append]; omega
  cases i with
  | lit b =>
    cases he
    have h0 : byteAt (pre ++ ([b] ++ post)) pre.length = b := hbyte 0 Nat.one_pos
    rw [decodeToken_lit (p := pre.length) (hlt 0 Nat.one_pos), h0]
    · rfl
    · rw [h0]; exact of_decide_eq_true hwf
  | litff =>
    cases he
    exact decodeToken_litff (hlt 1 (by decide)) (hbyte 0 (by decide)) (hbyte 1 (by decide))
  | ref dist n =>
    cases he
    have h1 : byteAt (pre ++ ([Config.esc] ++ le16 dist ++ [n] ++ post)) (pre.length + 1) = dist.extractLsb' 0 8 :=
      hbyte 1 (by simp [le16])
    have h3 : byteAt (pre ++ ([Config.esc] ++ le16 dist ++ [n] ++ post)) (pre.length + 3) = n := hbyte 3 (by simp [le16])
    have hd : rdLe16 (pre ++ ([Config.esc] ++ le16 dist ++ [n] ++ post)) (pre.length + 1) = dist :=
      (rdLe16_middle pre _ post 1 (by simp [le16])).trans (rdLe16_le16 dist)
    have hne : dist.extractLsb' 0 8 ≠ Config.esc := (low_byte_eq_esc_iff dist).not.mpr (of_decide_eq_true hwf)
    rw [decodeToken_ref (hlt 3 (by simp [le16])) (hbyte 0 (by simp)) (h1 ▸ hne), hd, h3]
    rfl
  | _ => cases he

/-! ### Commands -/

/-- The encoding of a command is read back as that command (R101). -/
theorem decodeCommand_of_encode (d : Descriptor) (i : Instr) (h : encode i = .command d) : decodeCommand d = .ok i := by
  cases i <;> cases h <;> rfl

/-- R101 assigns the opcodes `0x01..0x09` only. -/
theorem decodeCommand_unassigned (d : Descriptor) (h : d.op.toNat = 0 ∨ 10 ≤ d.op.toNat) :
    decodeCommand d = .error .unassignedOpcode := by
  unfold decodeCommand
  split
  case h_10 => rfl
  all_goals omega

/-! ### The statements -/

/-- Settles O1, layer by layer: a token by R85, a descriptor by R101. -/
theorem decodeOfEncodeIsTheInstruction : Obligations.DecodeOfEncodeIsTheInstruction := by
  intro i hwf
  cases he : encode i with
  | token bytes =>
    have hd : decodeToken bytes 0 = .ok (i, bytes.length) := by
      simpa using decodeToken_encode i [] bytes [] hwf he
    simp [decode, hd]
  | command d => exact decodeCommand_of_encode d i he

/-- Settles O2, by what decoding a token can do: the bytes it reads are those of the slice (R85). -/
theorem decodedTokenReencodes : Obligations.DecodedTokenReencodes := by
  intro T p i size h
  obtain ⟨_, e⟩ | ⟨hp, hb, e⟩ | ⟨_, _, e⟩ | ⟨hp, hb, hb', e⟩ | ⟨_, _, _, _, e⟩ | ⟨hp, hb, hb', e⟩ :=
    decodeToken_cases T p <;> rw [e] at h <;> cases h
  · refine ⟨decide_eq_true hb, rfl, hp, ?_⟩
    rw [slice_succ T p 0 hp, Nat.add_zero, slice_self, encode]
  · refine ⟨rfl, rfl, hp, ?_⟩
    rw [slice_succ T p 1 (by omega), slice_succ T (p + 1) 0 hp, Nat.add_zero, slice_self, hb, hb', encode]
  · have hwf : (rdLe16 T (p + 1)).toNat % 256 ≠ 255 := by
      rw [Ne, ← low_byte_eq_esc_iff, List.head_eq_of_cons_eq (le16_rdLe16 T (p + 1))]
      exact hb'
    refine ⟨decide_eq_true hwf, rfl, hp, ?_⟩
    rw [slice_succ T p 3 (by omega), slice_succ T (p + 1) 2 (by omega), slice_succ T (p + 1 + 1) 1 (by omega),
      slice_succ T (p + 1 + 1 + 1) 0 (by omega), Nat.add_zero, slice_self, hb, encode, le16_rdLe16]
    rfl

/-- Settles O3, from the two directions of the opcode map. -/
theorem commandDecodesExactlyItsEncoding : Obligations.CommandDecodesExactlyItsEncoding :=
  fun d i => ⟨encode_of_decodeCommand d i, decodeCommand_of_encode d i⟩

/-- Settles O4: each word is decoded as its table row says. -/
theorem specWordsDecode : Obligations.SpecWordsDecode := by
  refine ⟨?_, ?_, ?_, ?_, ?_, rfl, rfl, rfl⟩ <;> decide

/-- Settles O7: the descriptor is no command, so it is refused before it is taken up. -/
theorem unassignedOpcodeIsRefused : Obligations.UnassignedOpcodeIsRefused := by
  intro s sub rest hr hp hi hop
  rw [step_of_idle s hr hp, stepIdle_undecodable s sub rest _ hi (decodeCommand_unassigned sub.desc hop)]
  rfl

end Sys2Proof.Machine
end

section
/-! SUPPORT. The round trip of the codec (R165): token bytes that write an output, which the decoder reads back and the encoder
emits; and the decoder on references no encoder would emit (R89, R192). -/

namespace Sys2Proof.Machine

/-! ### Token bytes that write an output -/

/-- `Emits toks out`: the bytes `toks` are literals and back-references the output reaches, and the bytes they write are `out`
(R82-R84, R89, R187). -/
inductive Emits : Bytes → Bytes → Prop
  | nil : Emits [] []
  | lit {toks out : Bytes} (b : Byte) (h : Emits toks out) : Emits (toks ++ litBytes b) (out ++ [b])
  | ref {toks out : Bytes} (dist n : Nat) (h : Emits toks out) (hd1 : 1 ≤ dist) (hd2 : dist ≤ 65535)
      (hreach : dist ≤ out.length) (hlow : lo8 dist ≠ Config.esc) (hn1 : 1 ≤ n) (hn2 : n ≤ 255) :
      Emits (toks ++ [Config.esc, lo8 dist, hi8 dist, lo8 n]) (out ++ copyBytes out dist n)

/-- Literals write their own bytes (R83, R157). -/
theorem emits_literals (data : Bytes) : Emits (data.flatMap litBytes) data := by
  induction data using List.reverseRecOn with
  | nil => exact .nil
  | append_singleton data b ih => simpa using ih.lit b

/-! ### The decoder reads them back

A turn of the walk executes the token that is decoded at `p` (R182). -/

section WalkToken

variable {T : Bytes} {fuel : Nat} {w : Walk}

theorem Walk.loop_of_decodeToken_lit {b : Byte} (h : decodeToken T w.regs.p = .ok (.lit b, 1)) :
    Walk.loop T (fuel + 1) w = Walk.loop T fuel (w.put [b] 1) := by
  obtain ⟨_, e⟩ | ⟨hp, hb, e⟩ | ⟨_, _, e⟩ | ⟨_, _, _, e⟩ | ⟨_, _, _, _, e⟩ | ⟨_, _, _, e⟩ :=
    decodeToken_cases T w.regs.p <;> rw [e] at h <;> cases h
  exact Walk.loop_lit T fuel w hp hb

theorem Walk.loop_of_decodeToken_litff (h : decodeToken T w.regs.p = .ok (.litff, 2)) :
    Walk.loop T (fuel + 1) w = Walk.loop T fuel (w.put [Config.esc] 2) := by
  obtain ⟨_, e⟩ | ⟨_, _, e⟩ | ⟨_, _, e⟩ | ⟨hp, hb, hb', e⟩ | ⟨_, _, _, _, e⟩ | ⟨_, _, _, e⟩ :=
    decodeToken_cases T w.regs.p <;> rw [e] at h <;> cases h
  exact Walk.loop_litff T fuel w hp hb hb'

theorem Walk.loop_of_decodeToken_ref {dist : BitVec 16} {n : Byte}
    (h : decodeToken T w.regs.p = .ok (.ref dist n, 4)) (hv : refValid w.out.length dist n = true) :
    Walk.loop T (fuel + 1) w = Walk.loop T fuel (w.fetchRef dist n).runRef := by
  obtain ⟨_, e⟩ | ⟨_, _, e⟩ | ⟨_, _, e⟩ | ⟨_, _, _, e⟩ | ⟨_, _, _, _, e⟩ | ⟨hp, hb, hb', e⟩ :=
    decodeToken_cases T w.regs.p <;> rw [e] at h <;> cases h
  exact Walk.loop_ref_valid T fuel w hp hb hb' hv

end WalkToken

/-- The two bytes of a distance are its 16-bit field (R84). -/
theorem le16_ofNat (dist : Nat) : le16 (BitVec.ofNat 16 dist) = [lo8 dist, hi8 dist] := by
  have hlow : (BitVec.ofNat 16 dist).extractLsb' 0 8 = lo8 dist := by
    rw [← BitVec.toNat_inj, lo8, BitVec.extractLsb'_toNat, BitVec.toNat_ofNat, BitVec.toNat_ofNat, Nat.shiftRight_zero]
    omega
  have hhigh : (BitVec.ofNat 16 dist).extractLsb' 8 8 = hi8 dist := by
    rw [← BitVec.toNat_inj, hi8, BitVec.extractLsb'_toNat, BitVec.toNat_ofNat, BitVec.toNat_ofNat,
      Nat.shiftRight_eq_div_pow, Nat.shiftRight_eq_div_pow]
    omega
  rw [le16, hlow, hhigh]

/-- One turn of the walk reads a literal, escaped or not (R183, R184). -/
theorem Walk.loop_litBytes (toks post : Bytes) (b : Byte) (fuel : Nat) (w : Walk) (hp : w.regs.p = toks.length) :
    Walk.loop (toks ++ (litBytes b ++ post)) (fuel + 1) w
      = Walk.loop (toks ++ (litBytes b ++ post)) fuel (w.put [b] (litBytes b).length) := by
  by_cases hb : b = Config.esc
  · subst hb
    exact loop_of_decodeToken_litff (hp ▸ decodeToken_encode .litff toks _ post rfl rfl)
  · have hl : litBytes b = [b] := if_neg hb
    rw [hl]
    exact loop_of_decodeToken_lit (hp ▸ decodeToken_encode (.lit b) toks _ post (decide_eq_true hb) rfl)

/-- One turn of the walk reads a back-reference the output reaches (R185-R187). -/
theorem Walk.loop_refBytes (toks post : Bytes) (dist n fuel : Nat) (w : Walk) (hp : w.regs.p = toks.length)
    (hd1 : 1 ≤ dist) (hd2 : dist ≤ 65535) (hreach : dist ≤ w.out.length) (hlow : lo8 dist ≠ Config.esc) (hn1 : 1 ≤ n)
    (hn2 : n ≤ 255) :
    ∃ q : DecRegs, q.p = toks.length + 4
      ∧ Walk.loop (toks ++ ([Config.esc, lo8 dist, hi8 dist, lo8 n] ++ post)) (fuel + 1) w
        = Walk.loop (toks ++ ([Config.esc, lo8 dist, hi8 dist, lo8 n] ++ post)) fuel
            ⟨q, w.out ++ copyBytes w.out dist n⟩ := by
  have hdist : (BitVec.ofNat 16 dist).toNat = dist := by rw [BitVec.toNat_ofNat]; omega
  have hn : (lo8 n).toNat = n := by rw [lo8, BitVec.toNat_ofNat]; omega
  have hbytes : encode (.ref (BitVec.ofNat 16 dist) (lo8 n)) = .token [Config.esc, lo8 dist, hi8 dist, lo8 n] := by
    rw [encode, le16_ofNat]; rfl
  have hwf : (Instr.ref (BitVec.ofNat 16 dist) (lo8 n)).wf = true := by
    have h := (low_byte_eq_esc_iff (BitVec.ofNat 16 dist)).not.mp
      (by rwa [(List.cons_eq_cons.mp (le16_ofNat dist)).1])
    exact decide_eq_true h
  have hv : refValid w.out.length (BitVec.ofNat 16 dist) (lo8 n) = true := by
    rw [refValid_iff, hdist, hn]; omega
  have hout : (w.fetchRef (BitVec.ofNat 16 dist) (lo8 n)).runRef.out = w.out ++ copyBytes w.out dist n := by
    simp [hdist, hn]
  have hturn := loop_of_decodeToken_ref (fuel := fuel) (hp ▸ decodeToken_encode _ toks _ post hwf hbytes) hv
  refine ⟨(w.fetchRef (BitVec.ofNat 16 dist) (lo8 n)).runRef.regs, congrArg (· + 4) hp, hturn.trans ?_⟩
  rw [← hout]

/-- The walk of the decoder over token bytes arrives at what they write, one turn per token, and goes on with what follows. -/
theorem Emits.walk {toks out : Bytes} (h : Emits toks out) (r : DecRegs) (post : Bytes) (fuel : Nat) :
    ∃ (q : DecRegs) (left : Nat), q.p = toks.length ∧ fuel ≤ left
      ∧ Walk.loop (toks ++ post) (toks.length + fuel) ⟨r.start, []⟩ = Walk.loop (toks ++ post) left ⟨q, out⟩ := by
  induction h generalizing post fuel with
  | nil => exact ⟨r.start, fuel, rfl, le_rfl, by rw [List.length_nil, Nat.zero_add]⟩
  | @lit toks out b h ih =>
    have hlen : 1 ≤ (litBytes b).length := by rw [litBytes_length]; split <;> decide
    obtain ⟨q, left, hq, hleft, e⟩ := ih (litBytes b ++ post) ((litBytes b).length + fuel)
    obtain ⟨more, rfl⟩ : ∃ more, left = more + 1 := ⟨left - 1, by omega⟩
    rw [Walk.loop_litBytes toks post b more ⟨q, out⟩ hq] at e
    refine ⟨{ q with p := q.p + (litBytes b).length }, more, ?_, by omega, ?_⟩
    · rw [List.length_append, ← hq]
    · rw [List.append_assoc, List.length_append, Nat.add_assoc, e]
      rfl
  | @ref toks out dist n h hd1 hd2 hreach hlow hn1 hn2 ih =>
    obtain ⟨q, left, hq, hleft, e⟩ := ih ([Config.esc, lo8 dist, hi8 dist, lo8 n] ++ post) (4 + fuel)
    obtain ⟨more, rfl⟩ : ∃ more, left = more + 1 := ⟨left - 1, by omega⟩
    obtain ⟨q', hq', e'⟩ := Walk.loop_refBytes toks post dist n more ⟨q, out⟩ hq hd1 hd2 hreach hlow hn1 hn2
    refine ⟨q', more, ?_, by omega, ?_⟩
    · rw [hq', List.length_append]; rfl
    · rw [List.append_assoc, List.length_append, Nat.add_assoc]
      exact e.trans e'

/-- A token region of such bytes is decoded to what they write (R182). -/
theorem Emits.walkRegion {toks out : Bytes} (h : Emits toks out) (r : DecRegs) :
    ∃ q, walkRegion toks r = (⟨q, out⟩, .ok) := by
  obtain ⟨q, left, hq, _, e⟩ := h.walk r [] 0
  rw [List.append_nil, Nat.add_zero] at e
  exact ⟨q, e.trans (Walk.loop_of_end toks left ⟨q, out⟩ hq.ge)⟩

/-! ### A whole stream -/

section Stream

variable (toks : Bytes) (v : U32)

theorem stream_length : (streamHeader ++ toks ++ be32 v).length = toks.length + 6 := by
  simp [streamHeader]

theorem headerOk_stream : headerOk (streamHeader ++ toks ++ be32 v) = true := by
  have hlen : Config.minStreamLen ≤ (streamHeader ++ toks ++ be32 v).length := by
    rw [stream_length, Config.minStreamLen]; omega
  rw [headerOk, decide_eq_true hlen]
  rfl

theorem tokenRegion_stream : tokenRegion (streamHeader ++ toks ++ be32 v) = toks := by
  rw [tokenRegion, stream_length, List.append_assoc]
  exact slice_middle streamHeader toks (be32 v) 2 _ rfl (by rw [Config.trailerLen]; omega)

theorem trailer_stream : trailer (streamHeader ++ toks ++ be32 v) = v := by
  have hpos : (streamHeader ++ toks ++ be32 v).length - Config.trailerLen = (streamHeader ++ toks).length := by
    rw [List.length_append, be32_length, Config.trailerLen, Nat.add_sub_cancel]
  rw [trailer, hpos]
  simpa using rdBe32_append (streamHeader ++ toks) [] v

end Stream

/-- A stream of such tokens with the checksum of what they write decodes to that (R189). -/
theorem Emits.decompress_stream {toks out : Bytes} (h : Emits toks out) :
    decompress (streamHeader ++ toks ++ be32 (adler32 out)) = ⟨.ok, .bytes out⟩ := by
  obtain ⟨q, hw⟩ := h.walkRegion State.reset.dec
  rw [← tokenRegion_stream toks (adler32 out)] at hw
  exact decompress_of_trailer (headerOk_stream toks _) hw (trailer_stream toks _).symm

/-! ### The encoder emits them -/

/-- Every byte below the match length matches the window (R152). -/
theorem matchesAt_of_lt_matchLenFrom (data : Bytes) (i d fuel k j : Nat) (hk : k ≤ j)
    (hj : j < matchLenFrom data i d fuel k) : matchesAt data i d j = true := by
  induction fuel generalizing k with
  | zero => rw [matchLenFrom] at hj; omega
  | succ fuel ih =>
    rw [matchLenFrom] at hj
    split at hj
    · obtain rfl | hlt := Nat.eq_or_lt_of_le hk
      · assumption
      · exact ih (k + 1) hlt hj
    · omega

/-- The best match so far is no match, or one the match finder measured at a distance in range (R153, R154). -/
def IsMeasured (data : Bytes) (i : Nat) (best : Nat × Nat) : Prop :=
  best.1 = 0 ∨ (1 ≤ best.2 ∧ best.2 ≤ maxDist i ∧ best.1 = matchLen data i best.2)

theorem isMeasured_findMatchFrom (data : Bytes) (i fuel d : Nat) (best : Nat × Nat) (hd : 1 ≤ d)
    (hrange : d + fuel ≤ maxDist i + 1) (h : IsMeasured data i best) :
    IsMeasured data i (findMatchFrom data i fuel d best) := by
  induction fuel generalizing d best with
  | zero => exact h
  | succ fuel ih =>
    refine ih (d + 1) _ (by omega) (by omega) ?_
    obtain ⟨_, e⟩ | ⟨_, e⟩ := keepBest_cases best (matchLen data i d) d <;> rw [e]
    · exact .inr ⟨hd, by omega, rfl⟩
    · exact h

theorem isMeasured_findMatch (data : Bytes) (i : Nat) : IsMeasured data i (findMatch data i) :=
  isMeasured_findMatchFrom data i (maxDist i) 1 (0, 0) le_rfl (Nat.add_comm _ _).le (.inl rfl)

theorem take_succ_byteAt (data : Bytes) (i : Nat) (h : i < data.length) :
    data.take (i + 1) = data.take i ++ [byteAt data i] := by
  rw [List.take_succ_eq_append_getElem h, byteAt, List.getD_eq_getElem _ _ h]

/-- A match is a copy from the data before it (R152, R187). -/
theorem take_add_eq_copy (data : Bytes) (i d m : Nat) (hd : 1 ≤ d) (hdi : d ≤ i) (hi : i ≤ data.length)
    (hm : m ≤ matchLen data i d) : data.take (i + m) = data.take i ++ copyBytes (data.take i) d m := by
  have hlimit := (matchLen_le_limit data i d).trans (matchLimit_le data i)
  have hlen : (data.take i).length = i := List.length_take_of_le hi
  induction m with
  | zero => simp [copyBytes]
  | succ m ih =>
    have hwindow : i - d + m % d < i := by have := Nat.mod_lt m hd; omega
    have hmatch : byteAt data (i + m) = byteAt data (i - d + m % d) :=
      of_decide_eq_true (matchesAt_of_lt_matchLenFrom data i d _ 0 m (Nat.zero_le m) hm)
    have hread : byteAt (data.take i) (i - d + m % d) = byteAt data (i - d + m % d) := by
      simp [byteAt, hwindow]
    rw [← Nat.add_assoc, take_succ_byteAt data (i + m) (by omega), ih (by omega), copyBytes_succ, hlen, hread, hmatch,
      List.append_assoc]

/-- A turn of the encoder emits token bytes that write the data it moves over (R155-R157). -/
theorem EncRegs.visit_emits (data : Bytes) (e : EncRegs) (hi : e.i < data.length) (h : Emits e.tok (data.take e.i)) :
    Emits (e.visit data).tok (data.take (e.visit data).i) := by
  obtain ⟨he, htok, hpos⟩ | ⟨_, htok, hpos⟩ := EncRegs.visit_cases data e <;> rw [htok, hpos]
  · simp only [emitsRef, Bool.and_eq_true, decide_eq_true_eq] at he
    obtain ⟨hlen, hlow⟩ := he
    obtain hzero | ⟨hd1, hd2, hbest⟩ := isMeasured_findMatch data e.i
    · rw [hzero] at hlen; exact absurd hlen (by decide)
    have hdi : (findMatch data e.i).2 ≤ e.i := hd2.trans (maxDist_le e.i)
    have hwindow : maxDist e.i ≤ 32768 := Nat.min_le_right _ _
    have hcopy : tokenLen (findMatch data e.i).1 ≤ matchLen data e.i (findMatch data e.i).2 :=
      (Nat.min_le_left _ _).trans hbest.le
    have hmin : 1 ≤ tokenLen (findMatch data e.i).1 := Nat.le_min.mpr ⟨(by decide : 1 ≤ 4).trans hlen, by decide⟩
    rw [take_add_eq_copy data e.i _ _ hd1 hdi hi.le hcopy]
    refine h.ref _ _ hd1 (by omega) ?_ hlow hmin (Nat.min_le_right _ _)
    rwa [List.length_take_of_le hi.le]
  · rw [take_succ_byteAt data e.i hi]
    exact h.lit _

theorem EncRegs.loop_emits (data : Bytes) (fuel : Nat) (e : EncRegs) (h : Emits e.tok (data.take e.i)) :
    Emits (EncRegs.loop data fuel e).tok (data.take (EncRegs.loop data fuel e).i) := by
  induction fuel generalizing e with
  | zero => exact h
  | succ fuel ih =>
    rw [EncRegs.loop]
    split
    · exact ih _ (e.visit_emits data ‹_› h)
    · exact h

/-- The tokens of a compressed stream write the data (R150). -/
theorem emits_tokensOf (data : Bytes) : Emits (tokensOf data) data := by
  have h := EncRegs.loop_emits data data.length State.reset.enc.start .nil
  have hend := (EncRegs.loop_pays data data.length State.reset.enc.start).2 (Nat.le_add_left _ _)
  rwa [List.take_of_length_le hend] at h

/-- The round trip of the codec (R165). -/
theorem decompress_compress (data : Bytes) : decompress (compress data) = ⟨.ok, .bytes data⟩ :=
  (emits_tokensOf data).decompress_stream

/-! ### The statement about references no encoder emits -/

/-- Settles O36: literals and one reference are token bytes that write the output. -/
theorem nonCanonicalReferencesAreAccepted : Obligations.NonCanonicalReferencesAreAccepted := by
  intro o dist n hd1 hd2 hreach hlow hn1 hn2
  exact ((emits_literals o).ref dist n hd1 hd2 hreach hlow hn1 hn2).decompress_stream

end Sys2Proof.Machine
end

section
/-! SUPPORT. The framer's bytes by position (R92-R95, R200-R206), the commands of the framer and the pipeline as one transition,
and what is refused before any of it (R103, R229). -/

namespace Sys2Proof.Machine

/-! ### Chunks and the IHDR payload -/

theorem writeChunk_append (tag payload rest : Bytes) :
    writeChunk tag payload ++ rest
      = be32 (BitVec.ofNat 32 payload.length) ++ (tag ++ (payload ++ (be32 (crc32Of tag payload) ++ rest))) := by
  simp only [writeChunk, List.append_assoc]

theorem writeChunk_length (tag payload : Bytes) : (writeChunk tag payload).length = 8 + tag.length + payload.length := by
  simp only [writeChunk, List.length_append, be32_length]
  omega

/-- A length field holds every length R103 allows (R92). -/
theorem eq_of_be32_length_eq {m n : Nat} (hm : m ≤ 2 ^ 32 - 1) (hn : n ≤ 2 ^ 32 - 1)
    (h : be32 (BitVec.ofNat 32 m) = be32 (BitVec.ofNat 32 n)) : m = n := by
  have hval := congrArg BitVec.toNat (be32_injective h)
  rw [BitVec.toNat_ofNat, BitVec.toNat_ofNat, Nat.mod_eq_of_lt (by omega), Nat.mod_eq_of_lt (by omega)] at hval
  exact hval

theorem makeIhdr_length (width height : U32) : (makeIhdr width height).length = 13 := rfl

/-- Settles O38: the length field, then the tag, then as many bytes as the length says, then the CRC. -/
theorem chunksAreSelfDelimiting : Obligations.ChunksAreSelfDelimiting := by
  intro tag tag' payload payload' rest rest' ht ht' hp hp' h
  rw [writeChunk_append, writeChunk_append] at h
  obtain ⟨hlen, h⟩ := List.append_inj h rfl
  obtain ⟨rfl, h⟩ := List.append_inj h (ht.trans ht'.symm)
  obtain ⟨rfl, h⟩ := List.append_inj h (eq_of_be32_length_eq hp hp' hlen)
  exact ⟨rfl, rfl, List.append_cancel_left h⟩

/-- Settles O41: each field is read back where it was written. -/
theorem ihdrFieldsReadBack : Obligations.IhdrFieldsReadBack := by
  intro width height
  refine ⟨makeIhdr_length width height, ?_, ?_, rfl⟩
  · rw [makeIhdr, List.append_assoc]
    exact rdBe32_append [] _ width
  · rw [makeIhdr, List.append_assoc]
    exact rdBe32_append (be32 width) _ height

/-! ### The file -/

/-- In an assembled file the IDAT payload stands after the signature, the IHDR chunk and the length and tag of its own chunk,
and before its own CRC and the IEND chunk (R95, R204). -/
theorem slice_assemble_idat (ihdr idat : Bytes) (h : ihdr.length = 13) :
    slice (assemble ihdr idat) 41 ((assemble ihdr idat).length - 16) = idat := by
  have hsplit : assemble ihdr idat
      = (Config.pngSig ++ writeChunk Config.tagIhdr ihdr ++ be32 (BitVec.ofNat 32 idat.length) ++ Config.tagIdat)
        ++ (idat ++ (be32 (crc32Of Config.tagIdat idat) ++ writeChunk Config.tagIend [])) := by
    simp only [assemble, writeChunk, List.append_assoc]
  have hfront : (Config.pngSig ++ writeChunk Config.tagIhdr ihdr ++ be32 (BitVec.ofNat 32 idat.length)
      ++ Config.tagIdat).length = 41 := by
    simp only [List.length_append, writeChunk_length, h, be32_length]
    rfl
  have hback : (be32 (crc32Of Config.tagIdat idat) ++ writeChunk Config.tagIend []).length = 16 := by
    simp only [List.length_append, writeChunk_length, be32_length]
    rfl
  refine (congrArg (slice · 41 _) hsplit).trans (slice_middle _ idat _ 41 _ hfront ?_)
  rw [hsplit, List.length_append, hfront, List.length_append, hback]
  omega

/-! ### The commands as one transition -/

theorem whyRefused_of_ready {i : Instr} {s : State} (hi : i.isToken = false) (hwf : i.wf = true)
    (h : s.ready (buffersOf i)) : whyRefused i s = none :=
  (whyRefused_eq_none_iff i s).mpr ⟨h, (operandRefusal_eq_none_iff i hi).mpr hwf⟩

/-- Settles O37: a ready block with well-formed operands delivers the chunk. -/
theorem writeChunkCompletes : Obligations.WriteChunkCompletes := by
  intro s tag payload hready ht hp htakes
  have hw : whyRefused (.writeChunk tag payload) s = none :=
    whyRefused_of_ready rfl (by rw [Instr.wf, decide_eq_true ht, decide_eq_true hp]; rfl) hready
  simp only [exec, execWriteChunk, hw]
  exact deliverBytes_next (writeChunk tag payload) (s.afterChunk tag payload) htakes

/-- Settles O42: a ready block with payloads within their length fields delivers the file. -/
theorem assembleCompletes : Obligations.AssembleCompletes := by
  intro s ihdr idat hready hh hd htakes
  have hw : whyRefused (.assemble ihdr idat) s = none :=
    whyRefused_of_ready rfl (by rw [Instr.wf, decide_eq_true hh, decide_eq_true hd]; rfl) hready
  simp only [exec, execAssemble, hw]
  exact deliverBytes_next (assemble ihdr idat) { s with crc := crcAfter Config.tagIend } htakes

/-- What a completed `ENCODE_PNG` delivers is the pipeline's file (R206, R207). -/
theorem delivered_of_exec_encodePng {width height : U32} {pixels : Bytes} {s t : State}
    (h : exec (.encodePng width height pixels) s = .next t) :
    t = (s.afterPipeline width height pixels).delivered (encodePng width height pixels) := by
  have hw := exec_next_accepted _ s t rfl h
  simp only [exec, execEncodePng, hw] at h
  split at h
  · cases h
  · exact (deliverBytes_inv _ _ t h).2

/-- Settles O46: the IDAT payload of the file is the compressed stream of the filtered image, and the codec loses nothing. -/
theorem idatPayloadDecodesToTheFilteredImage : Obligations.IdatPayloadDecodesToTheFilteredImage := by
  intro s t width height pixels h
  refine ⟨encodePng width height pixels, by rw [delivered_of_exec_encodePng h]; rfl, ?_⟩
  rw [encodePng, slice_assemble_idat _ _ (makeIhdr_length width height)]
  exact decompress_compress (filterImage width.toNat height.toNat pixels)

/-! ### Refusals -/

theorem exec_refused_of_not_wf (i : Instr) (s : State) (hi : i.isToken = false) (hwf : i.wf = false) :
    ∃ r, exec i s = .refused r := by
  cases hw : whyRefused i s with
  | none =>
    have h := (operandRefusal_eq_none_iff i hi).mp ((whyRefused_eq_none_iff i s).mp hw).2
    rw [hwf] at h
    cases h
  | some r => exact ⟨r, exec_of_whyRefused i s r hi hw⟩

/-- A compressed stream over its length field is refused, whatever else the command meets (R103). -/
theorem exec_encodePng_refused_of_long {width height : U32} {pixels : Bytes} (s : State)
    (h : 2 ^ 32 - 1 < (compress (filterImage width.toNat height.toNat pixels)).length) :
    ∃ r, exec (.encodePng width height pixels) s = .refused r := by
  cases hw : whyRefused (.encodePng width height pixels) s with
  | some r => exact ⟨r, exec_of_whyRefused _ s r rfl hw⟩
  | none =>
    have hlong : pipelineRefusal width height pixels s = some .lengthFieldOverflow := if_pos h
    exact ⟨.lengthFieldOverflow, by simp only [exec, execEncodePng, hw, hlong]⟩

theorem wfImage_eq_false {width height : U32} {pixels : Bytes}
    (h : width.toNat = 0 ∨ height.toNat = 0 ∨ pixels.length ≠ width.toNat * height.toNat * 4) :
    wfImage width height pixels = false := by
  rw [← Bool.not_eq_true]
  simp only [wfImage, Bool.and_eq_true, decide_eq_true_eq]
  omega

/-- Settles O23: every operand condition of R103 is one of well-formedness, but for the length of the compressed stream. -/
theorem illFormedCommandsAreRefused : Obligations.IllFormedCommandsAreRefused := by
  intro s
  refine ⟨fun i hi hwf => exec_refused_of_not_wf i s hi hwf, fun width height pixels h => ⟨?_, ?_⟩,
    fun width height h => ?_, fun tag payload h => ?_, fun ihdr idat h => ?_,
    fun width height pixels h => exec_encodePng_refused_of_long s h⟩
  · exact exec_refused_of_not_wf (.filter width height pixels) s rfl (wfImage_eq_false h)
  · exact exec_refused_of_not_wf (.encodePng width height pixels) s rfl (wfImage_eq_false h)
  all_goals
    refine exec_refused_of_not_wf _ s rfl ?_
    rw [← Bool.not_eq_true]
    simp only [Instr.wf, Bool.and_eq_true, decide_eq_true_eq]
    omega

theorem startCommand_of_refused {i : Instr} {s : State} {r : Refusal} (h : exec i s = .refused r) :
    startCommand i s = .refused r := by
  obtain e | ⟨t, u, e, _⟩ := startCommand_cases i s
  · rw [e, h]
  · rw [h] at e; cases e

/-- Settles O60: at every grain the function form is asked before any walk starts. -/
theorem refusedCommandsTakeNoStep : Obligations.RefusedCommandsTakeNoStep := by
  intro s sub rest i r hr hp hi hd h
  rw [step_of_idle s hr hp, stepIdle_presented s sub rest i hi hd]
  by_cases hg : s.grain = .command
  · exact (runCommand_of_command i (s.accept sub rest) hg).trans h
  · exact (runCommand_of_stepForm i (s.accept sub rest) hg).trans (startCommand_of_refused h)

end Sys2Proof.Machine
end

section
/-! SUPPORT. The Checksum Unit: the CRC register's steps are one-to-one (R121), the Adler sums in closed form (R124) and in the
halves of the result (R125), and the commands CRC32 and ADLER32 as one transition (R123, R126). -/

namespace Sys2Proof.Machine

/-! ### The steps of the CRC register -/

theorem eq_of_ushiftRight_one_eq {c d : U32} (hlow : c.getLsbD 0 = d.getLsbD 0) (h : c >>> 1 = d >>> 1) : c = d := by
  refine BitVec.eq_of_getLsbD_eq fun i _ => ?_
  cases i with
  | zero => exact hlow
  | succ i =>
    have hbit := congrArg (BitVec.getLsbD · i) h
    simpa only [BitVec.getLsbD_ushiftRight, Nat.add_comm 1 i] using hbit

/-- The polynomial has its top bit set and a shift clears that bit, so a shifted register still tells which branch of R121 it
took. -/
theorem getLsbD_crcShift_top (c : U32) : (crcShift c).getLsbD 31 = c.getLsbD 0 := by
  unfold crcShift
  split
  next h => rw [h, BitVec.getLsbD_xor, BitVec.getLsbD_ushiftRight, BitVec.getLsbD_of_ge c _ (by decide)]; rfl
  next h => rw [Bool.eq_false_iff.mpr h, BitVec.getLsbD_ushiftRight, BitVec.getLsbD_of_ge c _ (by decide)]

theorem crcShift_injective : Function.Injective crcShift := by
  intro c d h
  have hlow : c.getLsbD 0 = d.getLsbD 0 := by rw [← getLsbD_crcShift_top c, h, getLsbD_crcShift_top]
  refine eq_of_ushiftRight_one_eq hlow ?_
  unfold crcShift at h
  rw [hlow] at h
  split at h
  · exact (BitVec.xor_left_inj _).mp h
  · exact h

theorem crcShifts_injective (n : Nat) : Function.Injective (crcShifts n) := by
  induction n with
  | zero => exact Function.injective_id
  | succ n ih => exact ih.comp crcShift_injective

theorem crcByte_left_injective (x : Byte) : Function.Injective (crcByte · x) := by
  intro c d h
  simp only [crcByte] at h
  exact (BitVec.xor_left_inj _).mp (crcShifts_injective 8 h)

theorem crcByte_right_injective (c : U32) : Function.Injective (crcByte c) := by
  intro x y h
  simp only [crcByte] at h
  have hwide : x.setWidth 32 = y.setWidth 32 := (BitVec.xor_right_inj _).mp (crcShifts_injective 8 h)
  simpa using congrArg (BitVec.setWidth 8) hwide

theorem CrcRegs.c_eq_of_foldl_feed_c_eq (s : Bytes) {r q : CrcRegs}
    (h : (s.foldl CrcRegs.feed r).c = (s.foldl CrcRegs.feed q).c) : r.c = q.c := by
  induction s generalizing r q with
  | nil => exact h
  | cons x s ih => exact crcByte_left_injective x (ih h)

/-- Settles O16: the two registers differ after the changed byte, and no later step makes them equal again. -/
theorem crcSeesEveryByte : Obligations.CrcSeesEveryByte := by
  intro before after x y hxy h
  refine hxy (crcByte_right_injective (crcAfter before).c ?_)
  have hend := (BitVec.xor_left_inj _).mp h
  rw [crcAfter_append, crcAfter_append] at hend
  exact CrcRegs.c_eq_of_foldl_feed_c_eq after hend

/-! ### The Adler sums in closed form -/

/-- The sum of the bytes, each as often as it has gone into `b` when all of `s` has been consumed. -/
def weightedSum (s : Bytes) : Nat := ((List.range s.length).map (fun j => (s.length - j) * (byteAt s j).toNat)).sum

theorem weightedSum_cons (x : Byte) (s : Bytes) : weightedSum (x :: s) = (s.length + 1) * x.toNat + weightedSum s := by
  simp [weightedSum, List.range_succ_eq_map, Function.comp_def, byteAt]

/-- One more byte adds the sum of all the bytes, itself included. -/
theorem weightedSum_concat (s : Bytes) (x : Byte) :
    weightedSum (s ++ [x]) = weightedSum s + (s.map BitVec.toNat).sum + x.toNat := by
  induction s with
  | nil => simp [weightedSum, byteAt]
  | cons y s ih =>
    rw [List.cons_append, weightedSum_cons, ih, weightedSum_cons, List.length_append, List.map_cons, List.sum_cons,
      List.length_singleton]
    ring

/-- Settles O18, by induction on the bytes consumed: one byte is one step of both sums. -/
theorem adlerSumsInClosedForm : Obligations.AdlerSumsInClosedForm := by
  intro s
  change _ ∧ (adlerAfter s).b = (s.length + weightedSum s) % 65521
  induction s using List.reverseRecOn with
  | nil => decide
  | append_singleton s x ih =>
    obtain ⟨ha, hb⟩ := ih
    rw [adlerAfter_append, weightedSum_concat, List.length_append, List.map_append, List.sum_append]
    simp only [List.foldl_cons, List.foldl_nil, AdlerRegs.feed, Config.adlerMod, ha, hb, List.map_cons, List.map_nil,
      List.sum_cons, List.sum_nil, List.length_singleton]
    omega

/-! ### The halves of the Adler-32 result -/

/-- With both sums in 16 bits the result holds them side by side (R125). -/
theorem AdlerRegs.finish_toNat (r : AdlerRegs) (ha : r.a < 2 ^ 16) (hb : r.b < 2 ^ 16) :
    r.finish.toNat = r.b * 2 ^ 16 + r.a := by
  rw [AdlerRegs.finish, ← Nat.shiftLeft_add_eq_or_of_lt ha, BitVec.toNat_ofNat, Nat.shiftLeft_eq]
  exact Nat.mod_eq_of_lt (by omega)

/-- Settles O19: the sums of any data are in range, and the empty input leaves the start values. -/
theorem adlerHalvesDoNotOverlap : Obligations.AdlerHalvesDoNotOverlap := by
  refine ⟨fun s => ?_, by decide⟩
  obtain ⟨ha, hb⟩ := adlerAfter_range s
  have hval : (adler32 s).toNat = (adlerAfter s).b * 2 ^ 16 + (adlerAfter s).a :=
    (adlerAfter s).finish_toNat (by omega) (by omega)
  refine ⟨ha, hb, ?_, ?_⟩ <;> rw [BitVec.extractLsb'_toNat, hval, Nat.shiftRight_eq_div_pow] <;> omega

/-! ### The commands as one transition -/

/-- Settles O15: a ready block takes the command up and delivers the CRC of the two operands together. -/
theorem crc32Completes : Obligations.Crc32Completes := by
  intro s a b hready
  have hw : whyRefused (.crc32 a b) s = none := whyRefused_of_ready rfl rfl hready
  simp only [exec, execCrc32, hw]
  exact deliverU32_eq (crc32 (a ++ b)) { s with crc := crcAfter (a ++ b) }

/-- Settles O17: a ready block takes the command up and delivers the Adler-32 of its operand. -/
theorem adler32Completes : Obligations.Adler32Completes := by
  intro s data hready
  have hw : whyRefused (.adler32 data) s = none := whyRefused_of_ready rfl rfl hready
  simp only [exec, execAdler32, hw]
  exact deliverU32_eq (adler32 data) { s with adler := adlerAfter data }

end Sys2Proof.Machine
end

section
/-! SUPPORT. The filtered buffer read byte by byte (R140, R144), the filter undone row by row (R143), and FILTER as one
transition (R141). -/

namespace Sys2Proof.Machine

/-! ### The bytes of the filtered buffer -/

@[simp] theorem filterRow_getElem?_zero (W : Nat) (row : Bytes) : (filterRow W row)[0]? = some Config.filterSub := rfl

theorem filterRow_getElem?_succ {W x : Nat} (row : Bytes) (h : x < W) :
    (filterRow W row)[x + 1]? = some (subByte row x) := by
  rw [filterRow, List.getElem?_cons_succ, List.getElem?_map, List.getElem?_range h, Option.map_some]

/-- Row `r` of the filtered buffer is the filtered row `r` of the image, wherever the image ends. -/
theorem filterImage_getElem?_row {width height r k : Nat} (pixels : Bytes) (hr : r < height)
    (hk : k < 1 + rowBytes width) :
    (filterImage width height pixels)[r * (1 + rowBytes width) + k]?
      = (filterRow (rowBytes width) (slice pixels (r * rowBytes width) ((r + 1) * rowBytes width)))[k]? := by
  induction height with
  | zero => cases hr
  | succ height ih =>
    rw [filterImage_succ]
    obtain hlt | rfl := Nat.lt_succ_iff_lt_or_eq.mp hr
    · rw [List.getElem?_append_left, ih hlt]
      have hrow := filterImage_row_le width height r pixels hlt
      rw [filterImage_length] at hrow
      omega
    · rw [← filterImage_length width r pixels, List.getElem?_append_right (Nat.le_add_right _ _),
        Nat.add_sub_cancel_left]

/-- The byte at offset `x` of row `r` of the filtered buffer, after the row's filter type. -/
theorem filterImage_getElem?_byte {width height r x : Nat} (pixels : Bytes) (hr : r < height)
    (hx : x < rowBytes width) :
    (filterImage width height pixels)[r * (1 + rowBytes width) + 1 + x]?
      = some (subByte (slice pixels (r * rowBytes width) ((r + 1) * rowBytes width)) x) := by
  rw [Nat.add_assoc, Nat.add_comm 1 x, filterImage_getElem?_row pixels hr (by omega), filterRow_getElem?_succ _ hx]

/-- A row of the image is read at its own offset. -/
theorem byteAt_row {W r x : Nat} (pixels : Bytes) (h : x < W) :
    byteAt (slice pixels (r * W) ((r + 1) * W)) x = byteAt pixels (r * W + x) :=
  byteAt_slice pixels _ _ x (by rw [Nat.succ_mul]; omega)

/-- The Sub delta at offset `x` of row `r`, read in the image itself. -/
theorem subByte_row {W r x : Nat} (pixels : Bytes) (h : x < W) :
    subByte (slice pixels (r * W) ((r + 1) * W)) x
      = if x < 4 then byteAt pixels (r * W + x)
        else byteAt pixels (r * W + x) - byteAt pixels (r * W + x - 4) := by
  rw [subByte, byteAt_row pixels h, Config.bpp]
  split
  · rfl
  · rw [byteAt_row pixels (by omega), Nat.add_sub_assoc (by omega)]

/-- Settles O21: the buffer is read row by row, and a row's byte is the Sub delta at its offset. -/
theorem filterBytesAreSubDeltas : Obligations.FilterBytesAreSubDeltas := by
  intro width height pixels _
  refine ⟨filterImage_length width height pixels, fun r hr => ⟨?_, fun x hx => ?_⟩⟩
  · exact filterImage_getElem?_row (k := 0) pixels hr (by omega)
  · exact (filterImage_getElem?_byte pixels hr hx).trans (congrArg some (subByte_row pixels hx))

/-! ### The filter undone -/

/-- A row is known from its Sub deltas: each of its bytes is the delta plus the byte four before it (R143). -/
theorem byteAt_eq_of_subByte_eq {W : Nat} {row row' : Bytes} (h : ∀ x < W, subByte row x = subByte row' x) :
    ∀ x < W, byteAt row x = byteAt row' x := by
  intro x
  induction x using Nat.strongRecOn with
  | ind x ih =>
    intro hx
    have hsub := h x hx
    unfold subByte at hsub
    split at hsub
    · exact hsub
    · have hbpp : Config.bpp = 4 := rfl
      have hleft : byteAt row (x - Config.bpp) = byteAt row' (x - Config.bpp) := ih _ (by omega) (by omega)
      rw [hleft] at hsub
      exact (BitVec.sub_left_inj _).mp hsub

/-- Byte sequences of one length are equal when their bytes are. -/
theorem eq_of_byteAt_eq {s t : Bytes} (hlen : s.length = t.length) (h : ∀ i < s.length, byteAt s i = byteAt t i) :
    s = t := by
  refine List.ext_getElem? fun i => ?_
  change memRead s i = memRead t i
  by_cases hi : i < s.length
  · rw [memRead_eq_some s i hi, memRead_eq_some t i (hlen ▸ hi), h i hi]
  · rw [(memRead_eq_none_iff s i).mpr (by omega), (memRead_eq_none_iff t i).mpr (by omega)]

/-- Settles O22: equal buffers have equal deltas in every row, and a row is known from its deltas. -/
theorem filterLosesNothing : Obligations.FilterLosesNothing := by
  intro width height p q hp hq heq
  have hrow (r : Nat) (hr : r < height) : ∀ x < rowBytes width,
      byteAt p (r * rowBytes width + x) = byteAt q (r * rowBytes width + x) := by
    intro x hx
    rw [← byteAt_row p hx, ← byteAt_row q hx]
    refine byteAt_eq_of_subByte_eq (fun y hy => ?_) x hx
    have hbyte := filterImage_getElem?_byte p hr hy
    rw [heq, filterImage_getElem?_byte q hr hy] at hbyte
    exact (Option.some.inj hbyte).symm
  refine eq_of_byteAt_eq (hp.trans hq.symm) fun i hi => ?_
  have hlt : i < rowBytes width * height := by
    rwa [hp, Nat.mul_right_comm] at hi
  have hoff : i % rowBytes width < rowBytes width := Nat.mod_lt _ (Nat.pos_of_lt_mul_right hlt)
  rw [← Nat.div_add_mod' i (rowBytes width)]
  exact hrow _ (Nat.div_lt_of_lt_mul hlt) _ hoff

/-! ### The command as one transition -/

/-- Settles O20: a ready block takes a well-formed image up and delivers its filtered buffer. -/
theorem filterCompletes : Obligations.FilterCompletes := by
  intro s width height pixels hready hw hh hlen htakes
  have hwf : (Instr.filter width height pixels).wf = true := by
    rw [Instr.wf, wfImage, decide_eq_true hw, decide_eq_true hh, decide_eq_true hlen]
    rfl
  have haccept : whyRefused (.filter width height pixels) s = none := whyRefused_of_ready rfl hwf hready
  simp only [exec, execFilter, haccept]
  exact deliverBytes_next (filterImage width.toNat height.toNat pixels)
    { s with fil := filterEnd width.toNat height.toNat } htakes

end Sys2Proof.Machine
end

section
/-! SUPPORT. The match length by the bytes it covers, in both readings of the window (R152, R164), the best match as the longest
at the smallest distance (R153, R154), the encoder turn by turn (R155-R158, R162, R163), and COMPRESS as one transition, with the
round trip it is one half of (R160, R165). -/

namespace Sys2Proof.Machine

/-! ### The match length -/

section Match

variable {data : Bytes} {i d m : Nat}

/-- The loop of R152 stops short of its limit only at a mismatch. -/
theorem matchesAt_matchLenFrom_of_lt {fuel k : Nat} (h : matchLenFrom data i d fuel k < k + fuel) :
    matchesAt data i d (matchLenFrom data i d fuel k) = false := by
  induction fuel generalizing k with
  | zero => exact absurd h (Nat.lt_irrefl k)
  | succ fuel ih =>
    rw [matchLenFrom] at h ⊢
    split at h
    · rw [if_pos ‹_›]
      exact ih (by omega)
    · rw [if_neg ‹_›]
      exact eq_false_of_ne_true ‹_›

theorem matchesAt_matchLen_of_lt (h : matchLen data i d < matchLimit data i) :
    matchesAt data i d (matchLen data i d) = false :=
  matchesAt_matchLenFrom_of_lt (by rwa [Nat.zero_add])

/-- The match length is maximal: within the limit, it reaches `m` exactly when the first `m` bytes match (R152). -/
theorem le_matchLen_iff (hm : m ≤ matchLimit data i) :
    m ≤ matchLen data i d ↔ ∀ k < m, matchesAt data i d k = true := by
  constructor
  · exact fun h k hk => matchesAt_of_lt_matchLenFrom data i d _ 0 k (Nat.zero_le k) (hk.trans_le h)
  · intro h
    by_contra hlt
    have hstop := matchesAt_matchLen_of_lt ((Nat.lt_of_not_le hlt).trans_le hm)
    rw [h _ (Nat.lt_of_not_le hlt)] at hstop
    cases hstop

/-- The window index of R152 is one of `i-d .. i-1`. -/
theorem window_index_range (hd : 1 ≤ d) (hdi : d ≤ i) (k : Nat) : i - d ≤ i - d + k % d ∧ i - d + k % d ≤ i - 1 := by
  have := Nat.mod_lt k hd
  omega

/-- Inside `data`, a match at `k` is an equality of bytes that are there (R152). -/
theorem matchesAt_iff_getElem? {k : Nat} (hd : 1 ≤ d) (hdi : d ≤ i) (hk : i + k < data.length) :
    matchesAt data i d k = true ↔ data[i + k]? = data[i - d + k % d]? := by
  have hwindow : i - d + k % d < data.length := by have := (window_index_range hd hdi k).2; omega
  rw [matchesAt, decide_eq_true_eq, byteAt, byteAt, List.getD_eq_getElem _ _ hk, List.getD_eq_getElem _ _ hwindow,
    List.getElem?_eq_getElem hk, List.getElem?_eq_getElem hwindow, Option.some_inj]

theorem le_matchLen_iff_window (hd : 1 ≤ d) (hdi : d ≤ i) (hm : m ≤ matchLimit data i) :
    m ≤ matchLen data i d ↔ ∀ k < m, data[i + k]? = data[i - d + k % d]? := by
  have hlimit := matchLimit_le data i
  exact (le_matchLen_iff hm).trans (forall₂_congr fun k hk => matchesAt_iff_getElem? hd hdi (by omega))

/-- Where `k` bytes match the window read modulo `d`, the window byte for the next one is the byte `d` back: it is in the window
itself, or it is one of the `k` bytes (R164). -/
theorem window_byte_eq_byte_back {k : Nat} (hd : 1 ≤ d) (hdi : d ≤ i)
    (h : ∀ j < k, data[i + j]? = data[i - d + j % d]?) :
    data[i - d + k % d]? = data[i + k - d]? := by
  by_cases hk : k < d
  · rw [Nat.mod_eq_of_lt hk, Nat.sub_add_comm hdi]
  · have hdk := Nat.le_of_not_lt hk
    rw [Nat.add_sub_assoc hdk, h (k - d) (Nat.sub_lt (hd.trans hdk) hd), ← Nat.mod_eq_sub_mod hdk]

/-- The two readings of the window agree on how far a match goes (R164). -/
theorem window_match_iff_match_back (hd : 1 ≤ d) (hdi : d ≤ i) :
    (∀ k < m, data[i + k]? = data[i - d + k % d]?) ↔ ∀ k < m, data[i + k]? = data[i + k - d]? := by
  induction m with
  | zero => simp
  | succ m ih =>
    rw [Nat.forall_lt_succ_right, Nat.forall_lt_succ_right, ← ih]
    exact and_congr_right fun h => by rw [window_byte_eq_byte_back hd hdi h]

end Match

/-- Settles O25: the match length reaches itself, and it is the limit or stands at a mismatch. -/
theorem matchLengthIsMaximal : Obligations.MatchLengthIsMaximal := by
  intro data i d hd hdi
  have hle := matchLen_le_limit data i d
  have hinside (k : Nat) (hk : k < matchLimit data i) : i + k < data.length := by
    have := matchLimit_le data i; omega
  refine ⟨hle, window_index_range hd hdi, fun k hk => ⟨hinside k (hk.trans_le hle), ?_⟩, fun hlt heq => ?_⟩
  · exact (le_matchLen_iff_window hd hdi hle).mp le_rfl k hk
  · have hstop := matchesAt_matchLen_of_lt hlt
    rw [(matchesAt_iff_getElem? hd hdi (hinside _ hlt)).mpr heq] at hstop
    cases hstop

/-- Settles O27: the match length reaches `m` exactly when `m` bytes match the window, in either reading. -/
theorem moduloMatchIsAnOverlappingMatch : Obligations.ModuloMatchIsAnOverlappingMatch := by
  intro data i d m hd hdi hm
  have hwindow := le_matchLen_iff_window hd hdi hm
  exact ⟨hwindow, hwindow.trans (window_match_iff_match_back hd hdi)⟩

/-! ### The best match -/

/-- `best` is what R154 keeps of the distances `1 .. bound-1`: no match and no distance, or the longest match at the smallest
distance that has it. -/
structure IsBest (data : Bytes) (i bound : Nat) (best : Nat × Nat) : Prop where
  longest : ∀ d, 1 ≤ d → d < bound → matchLen data i d ≤ best.1
  unmatched : best.1 = 0 → best.2 = 0
  range : 1 ≤ best.1 → 1 ≤ best.2 ∧ best.2 < bound
  measured : 1 ≤ best.1 → matchLen data i best.2 = best.1
  nearest : 1 ≤ best.1 → ∀ d, 1 ≤ d → d < best.2 → matchLen data i d < best.1

section Best

variable {data : Bytes} {i bound : Nat} {best : Nat × Nat}

/-- Before the first distance nothing is kept (R154). -/
theorem isBest_start (data : Bytes) (i : Nat) : IsBest data i 1 (0, 0) where
  longest _ h1 h2 := absurd h1 (Nat.not_le_of_lt h2)
  unmatched _ := rfl
  range := nofun
  measured := nofun
  nearest := nofun

/-- Trying one more distance (R154): a longer match is nearer than any other of its length, and else the best stays. -/
theorem IsBest.keepBest (h : IsBest data i bound best) (hb : 1 ≤ bound) :
    IsBest data i (bound + 1) (keepBest best (matchLen data i bound) bound) := by
  obtain ⟨hlt, e⟩ | ⟨hle, e⟩ := keepBest_cases best (matchLen data i bound) bound <;> rw [e]
  · have hbelow (d : Nat) (h1 : 1 ≤ d) (h2 : d < bound) : matchLen data i d < matchLen data i bound :=
      (h.longest d h1 h2).trans_lt hlt
    exact {
      longest := fun d h1 h2 => (Nat.lt_succ_iff_lt_or_eq.mp h2).elim (fun h2 => (hbelow d h1 h2).le) fun e => by rw [e]
      unmatched := fun h0 => absurd h0 (Nat.ne_zero_of_lt hlt)
      range := fun _ => ⟨hb, Nat.lt_succ_self bound⟩
      measured := fun _ => rfl
      nearest := fun _ => hbelow }
  · exact {
      longest := fun d h1 h2 => (Nat.lt_succ_iff_lt_or_eq.mp h2).elim (h.longest d h1) fun e => by rwa [e]
      unmatched := h.unmatched
      range := fun hpos => ⟨(h.range hpos).1, Nat.lt_succ_of_lt (h.range hpos).2⟩
      measured := h.measured
      nearest := h.nearest }

theorem IsBest.findMatchFrom (h : IsBest data i bound best) (hb : 1 ≤ bound) (fuel : Nat) :
    IsBest data i (bound + fuel) (findMatchFrom data i fuel bound best) := by
  induction fuel generalizing bound best with
  | zero => exact h
  | succ fuel ih =>
    rw [← Nat.add_assoc, Nat.add_right_comm]
    exact ih (h.keepBest hb) (Nat.le_succ_of_le hb)

/-- The match finder keeps the best of all its candidates (R153, R154). -/
theorem isBest_findMatch (data : Bytes) (i : Nat) : IsBest data i (maxDist i + 1) (findMatch data i) := by
  rw [Nat.add_comm]
  exact (isBest_start data i).findMatchFrom le_rfl (maxDist i)

end Best

/-- Settles O26: the loop keeps the best match of the distances it has tried. -/
theorem findMatchTakesLongestThenNearest : Obligations.FindMatchTakesLongestThenNearest := by
  intro data i
  have h := isBest_findMatch data i
  refine ⟨fun d h1 h2 => h.longest d h1 (Nat.lt_succ_of_le h2), h.unmatched, fun hpos => ?_⟩
  exact ⟨(h.range hpos).1, Nat.le_of_lt_succ (h.range hpos).2, h.measured hpos, h.nearest hpos⟩

/-! ### The encoder's turn -/

/-- The emit decision of R155. -/
theorem emitsRef_iff (len dist : Nat) : emitsRef len dist = true ↔ 4 ≤ len ∧ lo8 dist ≠ 0xFF := by
  rw [emitsRef, Bool.and_eq_true, decide_eq_true_eq, decide_eq_true_eq]
  exact Iff.rfl

/-- The best match ends inside the data (R151, R152). -/
theorem findMatch_le (data : Bytes) (i : Nat) : (findMatch data i).1 ≤ data.length - i := by
  obtain hzero | ⟨_, _, hlen⟩ := isMeasured_findMatch data i
  · rw [hzero]; exact Nat.zero_le _
  · rw [hlen]; exact (matchLen_le_limit data i _).trans (matchLimit_le data i)

/-- Settles O28, by what a turn can do: the reference is the best match, cut to a token's length. -/
theorem encoderTurnEmitsALegalToken : Obligations.EncoderTurnEmitsALegalToken := by
  intro data e _
  obtain ⟨he, htok, hpos⟩ | ⟨he, htok, hpos⟩ := EncRegs.visit_cases data e
  · have href := (emitsRef_iff _ _).mp he
    refine ⟨fun ⟨hlen, _⟩ => ?_, fun hlit => absurd href (by rwa [not_and_or, not_le, not_not])⟩
    have hrange := (isBest_findMatch data e.i).range (by omega)
    exact ⟨Nat.le_min.mpr ⟨hlen, by decide⟩, Nat.min_le_right _ _, (Nat.min_le_left _ _).trans (findMatch_le data e.i),
      hrange.1, Nat.le_of_lt_succ hrange.2, htok, hpos⟩
  · exact ⟨fun href => absurd ((emitsRef_iff _ _).mpr href) (by rw [he]; decide), fun _ => ⟨htok, hpos⟩⟩

/-! ### The length of a compressed stream -/

/-- A turn of the encoder stays inside the data and emits at most two bytes for each byte it covers (R151, R163). -/
theorem EncRegs.visit_bounds (data : Bytes) (e : EncRegs) (hi : e.i < data.length) :
    (e.visit data).i ≤ data.length
      ∧ (e.visit data).tok.length + 2 * e.i ≤ e.tok.length + 2 * (e.visit data).i := by
  obtain ⟨he, htok, hpos⟩ | ⟨_, htok, hpos⟩ := EncRegs.visit_cases data e <;> rw [htok, hpos, List.length_append]
  · have hlen : 4 ≤ tokenLen (findMatch data e.i).1 := Nat.le_min.mpr ⟨((emitsRef_iff _ _).mp he).1, by decide⟩
    have hinside : tokenLen (findMatch data e.i).1 ≤ data.length - e.i :=
      (Nat.min_le_left _ _).trans (findMatch_le data e.i)
    rw [refBytes_length]
    omega
  · have hlen : (litBytes (byteAt data e.i)).length ≤ 2 := by rw [litBytes_length]; split <;> decide
    omega

theorem EncRegs.loop_bounds (data : Bytes) (fuel : Nat) (e : EncRegs) (hi : e.i ≤ data.length) :
    (EncRegs.loop data fuel e).i ≤ data.length
      ∧ (EncRegs.loop data fuel e).tok.length + 2 * e.i ≤ e.tok.length + 2 * (EncRegs.loop data fuel e).i := by
  induction fuel generalizing e with
  | zero => exact ⟨hi, le_rfl⟩
  | succ fuel ih =>
    rw [EncRegs.loop]
    split
    · obtain ⟨hin, htok⟩ := e.visit_bounds data ‹_›
      obtain ⟨hend, hrest⟩ := ih (e.visit data) hin
      exact ⟨hend, by omega⟩
    · exact ⟨hi, le_rfl⟩

/-- The token bytes of `n` bytes of data are at most `2n` (R163). -/
theorem tokensOf_length_le (data : Bytes) : (tokensOf data).length ≤ 2 * data.length := by
  obtain ⟨hend, htok⟩ := EncRegs.loop_bounds data data.length State.reset.enc.start (Nat.zero_le _)
  rw [EncRegs.start_tok, EncRegs.start_i, List.length_nil, Nat.mul_zero, Nat.zero_add] at htok
  exact htok.trans (Nat.mul_le_mul_left 2 hend)

/-- The token bytes pay at least four for every 255 bytes of data, so data is never free (R163). -/
theorem tokensOf_pays (data : Bytes) : 4 * data.length ≤ 255 * (tokensOf data).length := by
  obtain ⟨hpays, hend⟩ := EncRegs.loop_pays data data.length State.reset.enc.start
  rw [EncRegs.start_tok, EncRegs.start_i, List.length_nil, Nat.mul_zero, Nat.zero_add] at hpays
  exact (Nat.mul_le_mul_left 4 (hend (Nat.le_add_left _ _))).trans hpays

theorem compress_length (data : Bytes) : (compress data).length = (tokensOf data).length + 6 := stream_length _ _

/-- Settles O29: the token bytes stand between six others. -/
theorem compressedLengthBounds : Obligations.CompressedLengthBounds := by
  intro data
  have hle := tokensOf_length_le data
  have hpays := tokensOf_pays data
  rw [compress_length, ← List.length_eq_zero_iff]
  omega

/-! ### The command as one transition -/

/-- Settles O24: a ready block takes the command up and delivers the compressed stream. -/
theorem compressCompletes : Obligations.CompressCompletes := by
  intro s data hready htakes
  have hw : whyRefused (.compress data) s = none := whyRefused_of_ready rfl rfl hready
  simp only [exec, execCompress, hw]
  exact deliverBytes_next (compress data) (s.afterCompress data) htakes

/-- What a completed `COMPRESS` delivers is the compressed stream (R160). -/
theorem delivered_of_exec_compress {s u : State} {data : Bytes} (h : exec (.compress data) s = .next u) :
    u = (s.afterCompress data).delivered (compress data) := by
  have hw := exec_next_accepted _ s u rfl h
  simp only [exec, execCompress, hw] at h
  exact (deliverBytes_inv _ _ u h).2

/-- The output of the walk over a compressed stream is the data (R165, R182). -/
theorem decodedOutput_compress (data : Bytes) : decodedOutput (compress data) = data := by
  obtain ⟨q, hw⟩ := (emits_tokensOf data).walkRegion State.reset.dec
  rw [← tokenRegion_stream (tokensOf data) (adler32 data)] at hw
  exact decodedOutput_of_walk hw

/-- Settles O30: what COMPRESS delivers is the compressed stream, which DECOMPRESS completes on, and the codec loses nothing. -/
theorem compressRoundTrips : Obligations.CompressRoundTrips := by
  intro s u data h
  refine ⟨compress data, by rw [delivered_of_exec_compress h]; rfl, fun v hready htakes => ?_⟩
  obtain ⟨hcap, hroom⟩ := htakes
  obtain ⟨w, hw, hresp, _⟩ := decompressCompletes v (compress data) hready
    (fun _ => by rwa [decodedOutput_compress])
    (fun b hb => by rw [decompress_compress] at hb; cases hb; exact hroom)
  exact ⟨w, hw, by rw [hresp, decompress_compress]⟩

end Sys2Proof.Machine
end

section
/-! SUPPORT. The tokens at the pointer, one rule each (R182-R187), a `REF` as a copy byte by byte (R164), and what a stream that
decodes is made of: its header, its trailer and the length its tokens pay for (R180, R188, R191). -/

namespace Sys2Proof.Machine

/-! ### Tokens at the pointer -/

theorem holdOutput_of_fits {s : State} (h : fits s.cfg.bufCap s.mem.out.length = true) : holdOutput s = .next s :=
  if_pos h

theorem runToken_of_ne_micro (i : Instr) (s : State) (hg : s.grain ≠ .micro) : runToken i s = exec i s := by
  cases h : s.grain with
  | micro => exact absurd h hg
  | command => simp [runToken, h]
  | token => simp [runToken, h]

/-- A token is decoded only inside the token region (R85). -/
theorem lt_length_of_decodeToken {T : Bytes} {p size : Nat} {i : Instr} (h : decodeToken T p = .ok (i, size)) :
    p < T.length := by
  by_contra hend
  rw [decodeToken, if_pos (Nat.le_of_not_lt hend)] at h
  cases h

/-- Settles O6: in RUN the step is that of the token at `p`, which is whole unless the grain is micro. -/
theorem stepRunsTheTokenAtThePointer : Obligations.StepRunsTheTokenAtThePointer := by
  intro s i size hr hp hd hg htoken
  have hrun : step s = stepRun s := State.afterWalk_step_run hr hp s.walk hd
  rw [hrun, stepRun_of_token s i size (lt_length_of_decodeToken htoken) htoken, runToken_of_ne_micro i s hg]

/-- Settles O10: at a token, a literal is one append, which fits. -/
theorem litAppendsItsByte : Obligations.LitAppendsItsByte := by
  intro s b hp hd hfit
  rw [exec_lit_of_atToken ((State.atToken_iff s).mpr ⟨hp, hd⟩)]
  exact holdOutput_of_fits (by simpa using hfit)

/-- Settles O11: at a token, the escaped literal is one append, which fits. -/
theorem litffAppendsTheEscapeByte : Obligations.LitffAppendsTheEscapeByte := by
  intro s hp hd hfit
  rw [exec_litff_of_atToken ((State.atToken_iff s).mpr ⟨hp, hd⟩)]
  exact holdOutput_of_fits (by simpa using hfit)

/-- Settles O14: each of the three defects fails the validation of R186. -/
theorem invalidRefEndsTheCommand : Obligations.InvalidRefEndsTheCommand := by
  intro s dist n hp hd hbad
  have hv : refValid s.mem.out.length dist n = false := by
    rw [Bool.eq_false_iff, Ne, refValid_iff]
    omega
  exact exec_ref_of_invalid ((State.atToken_iff s).mpr ⟨hp, hd⟩) hv

/-! ### The copy of a `REF` -/

section Copy

variable {out : Bytes} {dist : Nat} (hd : 1 ≤ dist) (hdL : dist ≤ out.length)
include hd hdL

/-- The window index of R187 is below the latched length. -/
theorem window_index_lt (k : Nat) : out.length - dist + k % dist < out.length := by
  have := (window_index_range hd hdL k).2
  omega

/-- Byte `k` of a copy is a byte of the output before it, the window read modulo `dist` (R187). -/
theorem copyBytes_getElem? {n k : Nat} (hk : k < n) :
    (copyBytes out dist n)[k]? = out[out.length - dist + k % dist]? := by
  rw [copyBytes, List.getElem?_map, List.getElem?_range hk, Option.map_some]
  exact (memRead_eq_some out _ (window_index_lt hd hdL k)).symm

/-- After `n` bytes of a copy, the byte `dist` back in the grown output is the next byte of the window (R164). -/
theorem byteAt_back_of_copy (n : Nat) :
    byteAt (out ++ copyBytes out dist n) (out.length + n - dist) = byteAt out (out.length - dist + n % dist) := by
  have hback := window_byte_eq_byte_back (data := out ++ copyBytes out dist n) (k := n) hd hdL fun j hj => by
    rw [List.getElem?_append_right (Nat.le_add_right _ _), Nat.add_sub_cancel_left, copyBytes_getElem? hd hdL hj,
      List.getElem?_append_left (window_index_lt hd hdL j)]
  rw [← byteAt_append_left out (copyBytes out dist n) _ (window_index_lt hd hdL n), byteAt, byteAt, List.getD, List.getD, hback]

/-- A copy byte by byte, each byte read from the grown output, appends the bytes of the window (R164, R187). -/
theorem byteByByteCopy_eq_append_copyBytes (n : Nat) : byteByByteCopy dist n out = out ++ copyBytes out dist n := by
  suffices h : ∀ m k, byteByByteCopy dist m (out ++ copyBytes out dist k) = out ++ copyBytes out dist (k + m) by
    simpa [copyBytes] using h n 0
  intro m
  induction m with
  | zero => exact fun _ => rfl
  | succ m ih =>
    intro k
    rw [byteByByteCopy, List.length_append, copyBytes_length, byteAt_back_of_copy hd hdL, List.append_assoc,
      ← copyBytes_succ, ih, Nat.add_right_comm, Nat.add_assoc]

end Copy

/-- The validation of R186 passes in the ranges the statements name. -/
theorem refValid_of_ranges {len : Nat} {dist : BitVec 16} {n : Byte} (hd : 1 ≤ dist.toNat) (hdL : dist.toNat ≤ len)
    (hn : 1 ≤ n.toNat) : refValid len dist n = true :=
  (refValid_iff len dist n).mpr ⟨Nat.ne_of_gt hd, hdL, Nat.ne_of_gt hn⟩

/-- A `REF` that answers was at a token, and where it is valid its output is the copy (R187). -/
theorem out_of_exec_ref {s t : State} {dist : BitVec 16} {n : Byte} (hv : refValid s.mem.out.length dist n = true)
    (h : exec (.ref dist n) s = .next t) : t.mem.out = s.mem.out ++ copyBytes s.mem.out dist.toNat n.toNat := by
  cases hat : s.atToken with
  | false => rw [exec_of_not_atToken _ s rfl hat] at h; cases h
  | true =>
    rw [exec_ref_of_valid hat hv] at h
    rw [(holdOutput_inv _ t h).2]
    rfl

/-- Settles O12: a valid `REF` appends the window read modulo the distance. -/
theorem refCopiesTheLatchedWindow : Obligations.RefCopiesTheLatchedWindow := by
  intro s dist n hp hdph hd hdL hn hfit
  have hv := refValid_of_ranges hd hdL hn
  refine ⟨copyBytes s.mem.out dist.toNat n.toNat, ?_, copyBytes_length _ _ _,
    fun k hk => ⟨window_index_lt hd hdL k, copyBytes_getElem? hd hdL hk⟩⟩
  rw [exec_ref_of_valid ((State.atToken_iff s).mpr ⟨hp, hdph⟩) hv]
  exact holdOutput_of_fits (by simpa using hfit)

/-- Settles O13: the bytes of the window are those of the copy byte by byte, and they stand after the old output. -/
theorem refIsAByteByByteCopy : Obligations.RefIsAByteByByteCopy := by
  intro s t dist n hd hdL hn h
  have hv := refValid_of_ranges hd hdL hn
  rw [out_of_exec_ref hv h, byteByByteCopy_eq_append_copyBytes hd hdL]
  exact ⟨rfl, List.take_left, by rw [List.length_append, copyBytes_length]⟩

/-! ### The header of a stream -/

/-- The check of R180 in the bytes of the spec. -/
theorem headerOk_iff (stream : Bytes) :
    headerOk stream = true ↔ 6 ≤ stream.length ∧ byteAt stream 0 = 0x78 ∧ byteAt stream 1 = 0x9C := by
  rw [headerOk, Bool.and_eq_true, Bool.and_eq_true, decide_eq_true_iff, decide_eq_true_iff, decide_eq_true_iff]
  exact and_assoc

/-- Settles O32: the header check fails, which comes first (R228). -/
theorem malformedHeaderWins : Obligations.MalformedHeaderWins := by
  intro s stream hready hbad
  have hh : headerOk stream = false := by
    rw [Bool.eq_false_iff, Ne, headerOk_iff]
    rintro ⟨hlen, hzero, hone⟩
    exact hbad.elim (Nat.not_lt_of_le hlen) fun h => h.elim (· hzero) (· hone)
  rw [exec_decompress_of_ready hready, runDecompress, hh]
  rfl

/-! ### A stream that decodes -/

/-- A stream decodes only with its header, a whole walk and a trailer that matches (R189). -/
theorem decompress_ok_inv {stream data : Bytes} (h : decompress stream = ⟨.ok, .bytes data⟩) :
    headerOk stream = true
      ∧ ∃ w, walkRegion (tokenRegion stream) State.reset.dec = (w, .ok) ∧ w.out = data
        ∧ adler32 data = trailer stream := by
  cases hh : headerOk stream with
  | false => rw [decompress_of_badHeader hh] at h; cases h
  | true =>
    rcases hw : walkRegion (tokenRegion stream) State.reset.dec with ⟨w, e⟩
    by_cases he : e = .ok
    · subst he
      by_cases ha : adler32 w.out = trailer stream
      · rw [decompress_of_trailer hh hw ha] at h
        cases h
        exact ⟨rfl, w, rfl, rfl, ha⟩
      · rw [decompress_of_wrongTrailer hh hw ha] at h; cases h
    · rw [decompress_of_failedWalk hh hw he] at h; cases h

/-- The token region is what is left before the trailer when the header is dropped (R181). -/
theorem tokenRegion_eq_drop_take (stream : Bytes) :
    tokenRegion stream = (stream.take (stream.length - 4)).drop 2 := List.drop_take.symm

theorem tokenRegion_length (stream : Bytes) : (tokenRegion stream).length = stream.length - 6 := by
  rw [tokenRegion_eq_drop_take, List.length_drop, List.length_take]
  omega

/-- Four bytes read as a field are written back as they were (R10). -/
theorem be32_rdBe32 (s : Bytes) (i : Nat) :
    be32 (rdBe32 s i) = [byteAt s i, byteAt s (i + 1), byteAt s (i + 2), byteAt s (i + 3)] := by
  have h24 : (rdBe32 s i).extractLsb' 24 8 = byteAt s i := by
    ext j hj
    grind [rdBe32]
  have h16 : (rdBe32 s i).extractLsb' 16 8 = byteAt s (i + 1) := by
    ext j hj
    grind [rdBe32]
  have h8 : (rdBe32 s i).extractLsb' 8 8 = byteAt s (i + 2) := by
    ext j hj
    grind [rdBe32]
  have h0 : (rdBe32 s i).extractLsb' 0 8 = byteAt s (i + 3) := by
    ext j hj
    grind [rdBe32]
  rw [be32, h24, h16, h8, h0]

/-- The last four bytes of a stream are its trailer (R181). -/
theorem drop_eq_be32_trailer {stream : Bytes} (h : 4 ≤ stream.length) :
    stream.drop (stream.length - 4) = be32 (trailer stream) := by
  obtain ⟨n, hn⟩ : ∃ n, stream.length = n + 4 := ⟨stream.length - 4, by omega⟩
  have hend : stream.drop (n + 4) = [] := List.drop_of_length_le hn.le
  have hbyte (i : Nat) (hi : i < n + 4) : stream.drop i = byteAt stream i :: stream.drop (i + 1) := by
    rw [List.drop_eq_getElem_cons (hn ▸ hi), byteAt, List.getD_eq_getElem _ _ (hn ▸ hi)]
  rw [trailer, be32_rdBe32, hn, Config.trailerLen, Nat.add_sub_cancel, hbyte n (by omega), hbyte (n + 1) (by omega),
    hbyte (n + 2) (by omega), hbyte (n + 3) (by omega), hend]

theorem byteAt_take {s : Bytes} {i n : Nat} (h : i < n) : byteAt (s.take n) i = byteAt s i := by
  simp [byteAt, List.getElem?_take_of_lt h]

/-- Settles O34: the walk and the header are those of the unchanged stream, and its checksum is not the new trailer. -/
theorem changedTrailerIsAChecksumMismatch : Obligations.ChangedTrailerIsAChecksumMismatch := by
  intro S S' data h hlen htake hne
  obtain ⟨hh, w, hw, rfl, ha⟩ := decompress_ok_inv h
  obtain ⟨hsix, hzero, hone⟩ := (headerOk_iff S).mp hh
  have hbefore (i : Nat) (hi : i < S.length - 4) : byteAt S' i = byteAt S i := by
    rw [← byteAt_take hi, htake, byteAt_take hi]
  have hh' : headerOk S' = true :=
    (headerOk_iff S').mpr ⟨hlen ▸ hsix, by rwa [hbefore 0 (by omega)], by rwa [hbefore 1 (by omega)]⟩
  have hregion : tokenRegion S' = tokenRegion S := by
    rw [tokenRegion_eq_drop_take, tokenRegion_eq_drop_take, hlen, htake]
  have htrailer : trailer S' ≠ trailer S := fun heq => hne <| by
    rw [← List.take_append_drop (S.length - 4) S, ← List.take_append_drop (S.length - 4) S', htake,
      drop_eq_be32_trailer (by omega), ← hlen, drop_eq_be32_trailer (by omega), heq]
  rw [← hregion] at hw
  exact decompress_of_wrongTrailer hh' hw (ha.trans_ne htrailer.symm)

/-! ### The length of what decodes -/

/-- One turn of the token walk ends it without moving, or executes one token inside the region, which pays four bytes for at
most 255 of output (R182-R187, R191). -/
theorem Walk.loop_succ_cases (T : Bytes) (fuel : Nat) (w : Walk) :
    (∃ v st, Walk.loop T (fuel + 1) w = (v, st) ∧ v.regs.p = w.regs.p ∧ v.out = w.out)
      ∨ ∃ v, Walk.loop T (fuel + 1) w = Walk.loop T fuel v ∧ v.regs.p ≤ T.length
          ∧ 4 * v.out.length + 255 * w.regs.p ≤ 4 * w.out.length + 255 * v.regs.p := by
  obtain ⟨hend, _⟩ | ⟨hlt, hb, _⟩ | ⟨hlt, _, e⟩ | ⟨hlt, hb, hb', _⟩ | ⟨hlt, _, _, _, e⟩ | ⟨hlt, hb, hb', _⟩ :=
    decodeToken_cases T w.regs.p
  · exact .inl ⟨_, _, Walk.loop_of_end T _ w hend, rfl, rfl⟩
  · refine .inr ⟨_, Walk.loop_lit T fuel w hlt hb, ?_⟩
    simp only [Walk.put_p, Walk.put_out, List.length_append, List.length_singleton]
    omega
  · exact .inl ⟨_, _, Walk.loop_truncated T fuel w _ (by omega) e, rfl, rfl⟩
  · refine .inr ⟨_, Walk.loop_litff T fuel w hlt hb hb', ?_⟩
    simp only [Walk.put_p, Walk.put_out, List.length_append, List.length_singleton]
    omega
  · exact .inl ⟨_, _, Walk.loop_truncated T fuel w _ (by omega) e, rfl, rfl⟩
  · cases hv : refValid w.out.length (rdLe16 T (w.regs.p + 1)) (byteAt T (w.regs.p + 3)) with
    | true =>
      refine .inr ⟨_, Walk.loop_ref_valid T fuel w hlt hb hb' hv, ?_⟩
      have hn : (byteAt T (w.regs.p + 3)).toNat < 256 := BitVec.isLt _
      simp only [Walk.runRef_p, Walk.runRef_out, Walk.fetchRef_p, Walk.fetchRef_out, Walk.fetchRef_n,
        List.length_append, copyBytes_length]
      omega
    | false => exact .inl ⟨_, _, Walk.loop_ref_invalid T fuel w hlt hb hb' hv, rfl, rfl⟩

/-- The token walk stays inside the region, and pays at least four token bytes for every 255 bytes of output (R33, R191). -/
theorem Walk.loop_pays (T : Bytes) (fuel : Nat) (w : Walk) (hp : w.regs.p ≤ T.length) :
    (Walk.loop T fuel w).1.regs.p ≤ T.length
      ∧ 4 * (Walk.loop T fuel w).1.out.length + 255 * w.regs.p
        ≤ 4 * w.out.length + 255 * (Walk.loop T fuel w).1.regs.p := by
  induction fuel generalizing w with
  | zero => exact ⟨hp, le_rfl⟩
  | succ fuel ih =>
    obtain ⟨v, st, e, hvp, hout⟩ | ⟨v, e, hin, hpays⟩ := Walk.loop_succ_cases T fuel w <;> rw [e]
    · rw [hvp, hout]
      exact ⟨hp, le_rfl⟩
    · obtain ⟨hend, hrest⟩ := ih v hin
      exact ⟨hend, by omega⟩

/-- The output of a token region is at most 255 bytes for every four of the region (R191). -/
theorem walkRegion_pays (T : Bytes) (r : DecRegs) : 4 * (walkRegion T r).1.out.length ≤ 255 * T.length := by
  obtain ⟨hend, hpays⟩ := Walk.loop_pays T T.length ⟨r.start, []⟩ (Nat.zero_le _)
  rw [DecRegs.start_p, List.length_nil] at hpays
  rw [walkRegion]
  omega

/-- Settles O35: what decodes is the output of the walk, which the token region pays for. -/
theorem decodedLengthBound : Obligations.DecodedLengthBound := by
  intro S data h
  obtain ⟨_, w, hw, rfl, _⟩ := decompress_ok_inv h
  have hpays := walkRegion_pays (tokenRegion S) State.reset.dec
  rw [hw, tokenRegion_length] at hpays
  exact (Nat.le_div_iff_mul_le (by decide)).mpr (Nat.mul_comm _ 4 ▸ hpays)

end Sys2Proof.Machine
end

section
/-! SUPPORT. The framer's lengths and its fixed last chunk (R208, R209), and the pipeline: each command as the delivery it makes
once it is taken up, MAKE_IHDR and ENCODE_PNG as one transition (R203, R207), and ENCODE_PNG as its four commands in turn
(R206). -/

namespace Sys2Proof.Machine

/-! ### Lengths -/

theorem assemble_length (ihdr idat : Bytes) : (assemble ihdr idat).length = 44 + ihdr.length + idat.length := by
  simp only [assemble, List.length_append, writeChunk_length, Config.pngSig, Config.tagIhdr, Config.tagIdat,
    Config.tagIend, List.length_cons, List.length_nil]
  omega

/-- Settles O39: a chunk is its payload and three words, and a file is the signature and three chunks. -/
theorem framedLengths : Obligations.FramedLengths := by
  refine ⟨fun tag payload ht => ?_, assemble_length, fun h d hh => ?_⟩
  · rw [writeChunk_length, ht]
  · rw [assemble_length, hh]

/-! ### The last chunk -/

theorem crc32_tagIend : crc32 Config.tagIend = 0xAE426082 := by decide +kernel

theorem crc32Of_nil (tag : Bytes) : crc32Of tag [] = crc32 tag := by rw [crc32Of, List.append_nil]

/-- Settles O45: the chunk has no payload, so its bytes are the length zero, the tag and the CRC of the tag. -/
theorem iendChunkIsFixed : Obligations.IendChunkIsFixed := by
  have hcrc : crc32Of [0x49, 0x45, 0x4E, 0x44] [] = 0xAE426082 := (crc32Of_nil Config.tagIend).trans crc32_tagIend
  refine ⟨?_, hcrc⟩
  rw [writeChunk, hcrc]
  decide

/-! ### The commands once they are taken up -/

section Accepted

variable {width height : U32} {pixels ihdr idat : Bytes} {s : State}

theorem exec_filter_of_accepted (hw : whyRefused (.filter width height pixels) s = none) :
    exec (.filter width height pixels) s
      = deliverBytes (filterImage width.toNat height.toNat pixels)
          { s with fil := filterEnd width.toNat height.toNat } := by
  simp only [exec, execFilter, hw]

theorem exec_makeIhdr_of_accepted (hw : whyRefused (.makeIhdr width height) s = none) :
    exec (.makeIhdr width height) s = deliverBytes (makeIhdr width height) s := by
  simp only [exec, execMakeIhdr, hw]

theorem exec_assemble_of_accepted (hw : whyRefused (.assemble ihdr idat) s = none) :
    exec (.assemble ihdr idat) s = deliverBytes (assemble ihdr idat) { s with crc := crcAfter Config.tagIend } := by
  simp only [exec, execAssemble, hw]

theorem exec_encodePng_of_accepted (hw : whyRefused (.encodePng width height pixels) s = none)
    (hp : pipelineRefusal width height pixels s = none) :
    exec (.encodePng width height pixels) s
      = deliverBytes (encodePng width height pixels) (s.afterPipeline width height pixels) := by
  simp only [exec, execEncodePng, hw, hp]

end Accepted

/-- A command that delivers bytes once it is taken up, and completes, leaves them in the output buffer (R62). -/
theorem out_of_exec {i : Instr} {b : Bytes} {s t u : State} (hi : i.isToken = false)
    (hd : whyRefused i s = none → exec i s = deliverBytes b u) (h : exec i s = .next t) : t.mem.out = b := by
  rw [hd (exec_next_accepted i s t hi h)] at h
  rw [(deliverBytes_inv b u t h).2, State.delivered_mem]

/-! ### The commands as one transition -/

/-- Settles O40: a ready block takes positive dimensions up and delivers the payload. -/
theorem makeIhdrCompletes : Obligations.MakeIhdrCompletes := by
  intro s width height hready hw hh htakes
  have hwf : (Instr.makeIhdr width height).wf = true := by rw [Instr.wf, decide_eq_true hw, decide_eq_true hh]; rfl
  rw [exec_makeIhdr_of_accepted (whyRefused_of_ready rfl hwf hready)]
  exact deliverBytes_next (makeIhdr width height) s htakes

/-- What the pipeline makes is not refused when its stream fits the length field and both buffers fit `BUF_CAP` (R103). -/
theorem pipelineRefusal_eq_none {width height : U32} {pixels : Bytes} {s : State}
    (hlen : (pipelineStream width height pixels).length ≤ Config.lenFieldMax)
    (hfil : fits s.cfg.bufCap (filterImage width.toNat height.toNat pixels).length = true)
    (hstr : fits s.cfg.bufCap (pipelineStream width height pixels).length = true) :
    pipelineRefusal width height pixels s = none := by
  rw [pipelineRefusal, if_neg (Nat.not_lt.mpr hlen), hfil, hstr]
  rfl

/-- Settles O43: a ready block takes a well-formed image up, none of the pipeline's limits is passed, and it delivers the
file. -/
theorem encodePngCompletes : Obligations.EncodePngCompletes := by
  intro s width height pixels hready hw hh hlen hstream hfil hstr htakes
  have hwf : (Instr.encodePng width height pixels).wf = true := by
    rw [Instr.wf, wfImage, decide_eq_true hw, decide_eq_true hh, decide_eq_true hlen]
    rfl
  rw [exec_encodePng_of_accepted (whyRefused_of_ready rfl hwf hready) (pipelineRefusal_eq_none hstream hfil hstr)]
  exact deliverBytes_next (encodePng width height pixels) (s.afterPipeline width height pixels) htakes

/-! ### The pipeline as four commands -/

/-- Settles O44: each of the four commands leaves its own function's bytes, and the file is those functions composed. -/
theorem encodePngIsTheFourCommands : Obligations.EncodePngIsTheFourCommands := by
  intro width height pixels a a' b b' c c' d d' e e' hfilter hcompress hihdr hassemble hpng
  have hfil : a'.mem.out = filterImage width.toNat height.toNat pixels :=
    out_of_exec rfl exec_filter_of_accepted hfilter
  have hstream : b'.mem.out = compress a'.mem.out := by
    rw [delivered_of_exec_compress hcompress, State.delivered_mem]
  have hpayload : c'.mem.out = makeIhdr width height := out_of_exec rfl exec_makeIhdr_of_accepted hihdr
  have hfile : d'.mem.out = assemble c'.mem.out b'.mem.out := out_of_exec rfl exec_assemble_of_accepted hassemble
  calc e'.mem.out = encodePng width height pixels := by
        rw [delivered_of_exec_encodePng hpng, State.delivered_mem]
    _ = assemble (makeIhdr width height) (compress (filterImage width.toNat height.toNat pixels)) := rfl
    _ = d'.mem.out := by rw [hfile, hpayload, hstream, hfil]

end Sys2Proof.Machine
end

section
/-! SUPPORT. How a command ends: the token at the pointer that is cut short (R223), an error of DECOMPRESS (R226), the completion of
every other command (R220), and the codes of the statuses (R221). -/

namespace Sys2Proof.Machine

/-! ### A token cut short -/

/-- Inside the token region, the bytes at `p` are no token exactly when the escape is last or a `REF` lacks bytes (R85, R223). -/
theorem decodeToken_error_iff {T : Bytes} {p : Nat} (hin : p < T.length) :
    (∃ e, decodeToken T p = .error e)
      ↔ byteAt T p = Config.esc
        ∧ (p = T.length - 1 ∨ (byteAt T (p + 1) ≠ Config.esc ∧ T.length - p < 4)) := by
  obtain ⟨hend, _⟩ | ⟨_, hb, e⟩ | ⟨hlast, hb, e⟩ | ⟨hnext, hb, hb', e⟩ | ⟨_, hshort, hb, hb', e⟩
    | ⟨hwhole, hb, hb', e⟩ := decodeToken_cases T p
  · omega
  · simp [e, hb]
  · have hp : p = T.length - 1 := by omega
    simp [e, hb, ← hp]
  · have hp : p ≠ T.length - 1 := by omega
    simp [e, hb', hp]
  · have hmissing : T.length - p < 4 := by omega
    simp [e, hb, hb', hmissing]
  · have hp : p ≠ T.length - 1 := by omega
    have hfour : 4 ≤ T.length - p := by omega
    simp [e, hp, hfour]

theorem isToken_of_decodeToken {T : Bytes} {p size : Nat} {i : Instr} (h : decodeToken T p = .ok (i, size)) :
    i.isToken = true := by
  obtain ⟨_, e⟩ | ⟨_, _, e⟩ | ⟨_, _, e⟩ | ⟨_, _, _, e⟩ | ⟨_, _, _, _, e⟩ | ⟨_, _, _, e⟩ := decodeToken_cases T p <;>
    rw [e] at h <;> cases h <;> rfl

/-- If the command in flight in `s` has ended in `t`, it has ended with the error `e` (R226). -/
def State.EndsOnlyWith (s : State) (e : Status) (t : State) : Prop :=
  t.phase = .idle → t.responses = s.responses ++ [⟨e, .empty⟩]

/-- While the block stays `Busy`, no command has ended. -/
theorem State.endsOnlyWith_of_busy {s t : State} {e : Status} {w : Walker} (h : t.phase = .busy w) :
    s.EndsOnlyWith e t := fun hidle => by rw [h] at hidle; cases hidle

/-- The one error of a whole token is `InvalidBackReference` (R183-R187). -/
theorem runToken_endsOnlyWith (i : Instr) (s : State) (hi : i.isToken = true) (hp : s.phase = .busy .decompressor)
    (hd : s.dec.dph = .run) : Meets False (s.EndsOnlyWith .invalidBackReference) (runToken i s) := by
  have hat : s.atToken = true := s.atToken_iff.mpr ⟨hp, hd⟩
  have goesOn (w : Walk) : Meets False (s.EndsOnlyWith .invalidBackReference) (holdOutput (s.afterWalk w)) :=
    meets_holdOutput fun _ => State.endsOnlyWith_of_busy hp
  cases i with
  | lit b => rw [runToken_lit b s hat]; exact goesOn _
  | litff => rw [runToken_litff s hat]; exact goesOn _
  | ref dist n =>
    cases hv : refValid s.mem.out.length dist n with
    | false => rw [runToken_ref_of_invalid dist n s hat hv]; exact fun _ => rfl
    | true =>
      by_cases hg : s.grain = .micro
      · rw [runToken_ref_micro dist n s hv hg]; exact State.endsOnlyWith_of_busy hp
      · rw [runToken_ref_whole dist n s hat hv hg]; exact goesOn _
  | _ => cases hi

/-- Settles O8: the step raises the error where nothing decodes, and a token that does decode ends the command with another error
if at all. -/
theorem truncatedTokenExactlyWhenBytesAreMissing : Obligations.TruncatedTokenExactlyWhenBytesAreMissing := by
  intro s hr hp hd hin
  have hrun : step s = stepRun s := State.afterWalk_step_run hr hp s.walk hd
  have hesc : (0xFF : Byte) = Config.esc := rfl
  rw [hrun, hesc, ← decodeToken_error_iff hin]
  constructor
  · intro hfailed
    cases htoken : decodeToken s.region s.dec.p with
    | error e => exact ⟨e, rfl⟩
    | ok token =>
      obtain ⟨i, size⟩ := token
      rw [stepRun_of_token s i size hin htoken] at hfailed
      have hends := (runToken_endsOnlyWith i s (isToken_of_decodeToken htoken) hp hd).of_next hfailed rfl
      simp at hends
  · rintro ⟨e, he⟩
    exact stepRun_of_truncated s e hin he

/-! ### An error of DECOMPRESS -/

/-- A trailer check that completes on a wrong checksum has raised `ChecksumMismatch` (R188, R226). -/
theorem failed_of_checkTrailer {stream : Bytes} {s t : State} (h : checkTrailer stream s = .next t)
    (ha : adler32 s.mem.out ≠ trailer stream) : t = State.failed { s with adler := adlerAfter s.mem.out } .checksumMismatch := by
  obtain ⟨ha', _⟩ | ⟨_, e⟩ := checkTrailer_cases stream s
  · exact absurd ha' ha
  · rw [e] at h; cases h; rfl

/-- A DECOMPRESS that completes with an error leaves what that error leaves, from a state with the same responses (R226). -/
theorem failed_of_runDecompress {stream : Bytes} {s t : State} (h : runDecompress stream s = .next t)
    (hbad : (decompress stream).status ≠ .ok) :
    ∃ u : State, u.responses = s.responses ∧ t = u.failed (decompress stream).status := by
  obtain ⟨hh, e⟩ | ⟨hh, w, hw, _, e⟩ | ⟨hh, w, st, hst, hw, _, e⟩ | ⟨_, _, e⟩ := runDecompress_cases stream s <;>
    rw [e] at h
  · cases h
    exact ⟨s, rfl, by rw [decompress_of_badHeader hh]⟩
  · by_cases ha : adler32 w.out = trailer stream
    · rw [decompress_of_trailer hh hw ha] at hbad
      exact absurd rfl hbad
    · rw [decompress_of_wrongTrailer hh hw ha]
      refine ⟨_, ?_, failed_of_checkTrailer h ha⟩
      rfl
  · cases h
    exact ⟨s.afterWalk w, rfl, by rw [decompress_of_failedWalk hh hw hst]⟩
  · cases h

/-- Settles O33: whatever the error, the state is the one `raise` leaves. -/
theorem errorsLeaveNoOutput : Obligations.ErrorsLeaveNoOutput := by
  intro s t stream h hbad
  have hw := exec_next_accepted _ s t rfl h
  simp only [exec, execDecompress, hw] at h
  obtain ⟨u, hu, rfl⟩ := failed_of_runDecompress h hbad
  exact ⟨by rw [State.failed_responses, hu], rfl, rfl, rfl⟩

/-! ### The completion of every other command -/

/-- From `s` to `t` one response has been delivered, with status `OK` and a result (R102). -/
def State.AnswersOk (s t : State) : Prop := ∃ r, r ≠ .empty ∧ t.responses = s.responses ++ [⟨.ok, r⟩]

theorem answersOk_of_deliverU32 {s t u : State} {v : U32} (h : deliverU32 v u = .next t)
    (hu : u.responses = s.responses) : s.AnswersOk t := by
  rw [deliverU32_eq] at h
  cases h
  exact ⟨.u32 v, nofun, by rw [State.complete_responses, hu]⟩

theorem answersOk_delivered {s u : State} (b : Bytes) (hu : u.responses = s.responses) : s.AnswersOk (u.delivered b) :=
  ⟨.bytes b, nofun, by rw [State.delivered_responses, hu]⟩

theorem answersOk_of_deliverBytes {s t u : State} {b : Bytes} (h : deliverBytes b u = .next t)
    (hu : u.responses = s.responses) : s.AnswersOk t := by
  obtain ⟨_, rfl⟩ := deliverBytes_inv b u t h
  exact answersOk_delivered b hu

/-- Settles O48: once it is taken up, every command but DECOMPRESS is one delivery. -/
theorem onlyDecompressReturnsErrors : Obligations.OnlyDecompressReturnsErrors := by
  intro i s t hi hne h
  have hw := exec_next_accepted i s t hi h
  cases i with
  | lit | litff | ref => cases hi
  | decompress stream => exact absurd rfl (hne stream)
  | crc32 => simp only [exec, execCrc32, hw] at h; exact answersOk_of_deliverU32 h rfl
  | adler32 => simp only [exec, execAdler32, hw] at h; exact answersOk_of_deliverU32 h rfl
  | filter => rw [exec_filter_of_accepted hw] at h; exact answersOk_of_deliverBytes h rfl
  | compress => rw [delivered_of_exec_compress h]; exact answersOk_delivered _ rfl
  | writeChunk => simp only [exec, execWriteChunk, hw] at h; exact answersOk_of_deliverBytes h rfl
  | makeIhdr => rw [exec_makeIhdr_of_accepted hw] at h; exact answersOk_of_deliverBytes h rfl
  | assemble => rw [exec_assemble_of_accepted hw] at h; exact answersOk_of_deliverBytes h rfl
  | encodePng => rw [delivered_of_exec_encodePng h]; exact answersOk_delivered _ rfl

/-! ### The status codes -/

theorem Status.code_lt (st : Status) : st.code.toNat < 5 := by cases st <;> decide

/-- Settles O47: each code as it is defined, and no status beyond the five. -/
theorem statusCodesOfTheSpec : Obligations.StatusCodesOfTheSpec :=
  ⟨rfl, rfl, rfl, rfl, rfl, Status.code_lt⟩

end Sys2Proof.Machine
end

section
/-! SUPPORT. Reset: the state it leaves (R250), and the step that obeys it from any state (R252). -/

namespace Sys2Proof.Machine

/-- Settles O51: both fields as reset gives them. -/
theorem resetIsIdleWithNothingInFlight : Obligations.ResetIsIdleWithNothingInFlight := ⟨rfl, rfl⟩

/-- Settles O52: the step is `doReset`, which puts the block at reset (O51) and keeps the host's side. -/
theorem resetAbandonsTheCommand : Obligations.ResetAbandonsTheCommand := by
  intro s hr
  obtain ⟨hidle, hnone⟩ := resetIsIdleWithNothingInFlight
  exact ⟨s.doReset, step_of_resetLine s hr, s.doReset_phase.trans hidle, s.doReset_inFlight.trans hnone,
    s.doReset_responses, s.doReset_issue⟩

end Sys2Proof.Machine
end
